-- ==== Sys2Proof/Word.lean ====
section
/-! DEFINITION. The word types of the generator (spec 00_scope.md rules R5, R6).
An `uN` or `sN` of the spec is a bit vector of N bits; `int` is `Int`; counts, indexes and window offsets are `Nat`.
The constants are the ones rule R5 names. -/

namespace Sys2Proof

/-- `u8`. -/
abbrev Byte := BitVec 8
/-- `u16`. -/
abbrev U16 := BitVec 16
/-- `u32`: addresses (`ADDR_WIDTH` = 32) and the sample-time quantities (`T_WIDTH` = 32). -/
abbrev U32 := BitVec 32
/-- `s16` (`SAMPLE_BITS` = 16): two's complement, read as an integer by `toInt`. -/
abbrev S16 := BitVec 16

/-- `WT_LEN` (R5). -/
@[simp] abbrev wtLen : Nat := 64
/-- `SND_MEMORY_LENGTH` (R5): the length of the register file and of the bus window. -/
@[simp] abbrev sndMemoryLength : Nat := 512
/-- `N_CHANNELS` (R5). -/
@[simp] abbrev nChannels : Nat := 8
/-- `SLICE_LEN` (R5): `SND_MEMORY_LENGTH / N_CHANNELS`. -/
@[simp] abbrev sliceLen : Nat := 64

/-- The number of a channel, 0 to 7 (R110). -/
abbrev ChannelNo := Fin nChannels
/-- The 64 register bytes of one channel (R63, R110). -/
abbrev Slice := Vector Byte sliceLen
/-- The WaveTable's data, `samples[64]` (R23, R89). -/
abbrev WaveTable := Vector S16 wtLen
/-- One command descriptor as it stands at a port: a sequence of bytes (R72). -/
abbrev Descriptor := List Byte
/-- The register file as a sparse byte memory, keyed by window offset (R24). -/
abbrev Memory := List Host.Cell

end Sys2Proof
end

