-- ==== Sys2Proof/Machine/Bits.lean ====
section
/-! DEFINITION. Byte order and bit fields (spec 20_memory.md rule R53, 30_encoding.md rules R72, R73, 42_channel.md rule R119).
Wherever the spec places a multi-byte quantity in consecutive bytes it is little-endian; the byte order is decided here. -/

namespace Sys2Proof

/-- `lo | hi << 8` (R73, R115). -/
def le16 (lo hi : Byte) : U16 := hi ++ lo

/-- `b0 | b1 << 8 | b2 << 16 | b3 << 24` (R73). -/
def le32 (b0 b1 b2 b3 : Byte) : U32 := (b3 ++ b2) ++ (b1 ++ b0)

/-- The two bytes of a u16, least significant first (R72). -/
def bytes16 (v : U16) : List Byte := [v.extractLsb' 0 8, v.extractLsb' 8 8]

/-- The four bytes of a u32, least significant first (R72). -/
def bytes32 (v : U32) : List Byte :=
  [v.extractLsb' 0 8, v.extractLsb' 8 8, v.extractLsb' 16 8, v.extractLsb' 24 8]

/-- `b[7:4]`, as a number. -/
def highNibble (b : Byte) : Nat := b.toNat / 16

/-- `b[3:0]`, as a number. -/
def lowNibble (b : Byte) : Nat := b.toNat % 16

end Sys2Proof
end

