-- ==== Sys2Proof/Syntax.lean ====
section
/-! DEFINITION. The eleven operations (spec 30_encoding.md rule R74, opcode_table.json), the formats and the ports.
The word "instruction" maps to "operation" (00_scope.md rule R10). -/

namespace Sys2Proof

/-- One operation with its operands (R73). No operand value is reserved (R79). -/
inductive Instr where
  /-- WRITE, format W; `len` is the number of bytes of `data`. -/
  | write (addr : U32) (data : List Byte)
  /-- READ, format R. -/
  | read (addr : U32) (len : U16)
  /-- SIZE, format Q. -/
  | size
  /-- ADDR, format Q. -/
  | addr
  /-- START, format Q. -/
  | start
  /-- STOP, format Q. -/
  | stop
  /-- EXIT, format Q. -/
  | exit
  /-- SETRATE, format C; whole hertz. -/
  | setrate (hz : U32)
  /-- SEEK, format C; a time of unspecified unit. -/
  | seek (time : U32)
  /-- PULL, format S. -/
  | pull (n : U16)
  /-- MIX, format S. -/
  | mix (n : U16)
  deriving DecidableEq, Repr

/-- The name of an operation, without operands (R74). -/
inductive Opcode where
  | write | read | size | addr | start | stop | exit | setrate | seek | pull | mix
  deriving DecidableEq, Repr

/-- The five descriptor formats (R72). -/
inductive Format where
  /-- query or plain command: 1 byte -/
  | q
  /-- command with one 32-bit argument: 5 bytes -/
  | c
  /-- sample request: 3 bytes -/
  | s
  /-- bus read: 7 bytes -/
  | r
  /-- bus write: 7 + len bytes -/
  | w
  deriving DecidableEq, Repr

/-- The three logical request ports, each with the agent that issues there (R57, R71). -/
inductive Port where
  | bus | stream | control
  deriving DecidableEq, Repr

/-- The name of an instruction. -/
def Instr.opcode : Instr → Opcode
  | .write _ _ => .write
  | .read _ _ => .read
  | .size => .size
  | .addr => .addr
  | .start => .start
  | .stop => .stop
  | .exit => .exit
  | .setrate _ => .setrate
  | .seek _ => .seek
  | .pull _ => .pull
  | .mix _ => .mix

/-- The format column of the opcode map (R74). -/
def Opcode.format : Opcode → Format
  | .write => .w
  | .read => .r
  | .size => .q
  | .addr => .q
  | .start => .q
  | .stop => .q
  | .exit => .q
  | .setrate => .c
  | .seek => .c
  | .pull => .s
  | .mix => .s

/-- The port whose agent the source has issuing the operation (R57, R71). -/
def Opcode.port : Opcode → Port
  | .write => .bus
  | .read => .bus
  | .size => .bus
  | .addr => .bus
  | .start => .control
  | .stop => .control
  | .exit => .control
  | .setrate => .control
  | .seek => .stream
  | .pull => .stream
  | .mix => .control

/-- The operations of the bus agent: the ones that may be ordered between two SAMPLEs of a MIX (R57, R59). -/
def Instr.isBus (i : Instr) : Bool := i.opcode.port == Port.bus

end Sys2Proof
end

