-- ==== Sys2Proof/WellFormed.lean ====
section
/-! DEFINITION. Which instructions have a descriptor (spec 30_encoding.md rules R72, R73, R79).
Every operand value decodes; the one bound that a term can break is that `len` is a u16. -/

namespace Sys2Proof

/-- The payload of a WRITE has a length that the 16-bit field `len` holds (R73); nothing else can be ill formed. -/
def Instr.wellFormed : Instr → Bool
  | .write _ data => decide (data.length < 65536)
  | .read _ _ => true
  | .size => true
  | .addr => true
  | .start => true
  | .stop => true
  | .exit => true
  | .setrate _ => true
  | .seek _ => true
  | .pull _ => true
  | .mix _ => true

end Sys2Proof
end

