-- ==== Sys2Proof/Decode.lean ====
section
/-! DEFINITION. Decoding a command descriptor, total on any bytes, and the encoder
(spec 30_encoding.md rules R72 to R79, opcode_table.json). The opcode is examined first, then the length (R76, R78, R178). -/

namespace Sys2Proof

/-- Why a descriptor is rejected at decode (R76, R78). -/
inductive DecodeError where
  /-- an empty byte sequence: `ERR_FORMAT` -/
  | empty
  /-- opcode 0x00 or 0x0C to 0xFF: `ERR_OPCODE`, whatever the length -/
  | reservedOpcode (opc : Byte)
  /-- a defined opcode and a length other than its format's: `ERR_FORMAT` -/
  | wrongLength (op : Opcode)
  deriving DecidableEq, Repr

/-- The opcode map (R74): byte 0 of a descriptor. -/
def Opcode.code : Opcode → Byte
  | .write => 0x01#8
  | .read => 0x02#8
  | .size => 0x03#8
  | .addr => 0x04#8
  | .start => 0x05#8
  | .stop => 0x06#8
  | .exit => 0x07#8
  | .setrate => 0x08#8
  | .seek => 0x09#8
  | .pull => 0x0A#8
  | .mix => 0x0B#8

/-- The opcode map read from the byte; a reserved value has no operation (R74, R78). -/
def Opcode.ofByte? (b : Byte) : Option Opcode :=
  match b.toNat with
  | 0x01 => some .write
  | 0x02 => some .read
  | 0x03 => some .size
  | 0x04 => some .addr
  | 0x05 => some .start
  | 0x06 => some .stop
  | 0x07 => some .exit
  | 0x08 => some .setrate
  | 0x09 => some .seek
  | 0x0A => some .pull
  | 0x0B => some .mix
  | _ => none

/-- The operand bytes of format Q: none. -/
def fieldsQ : List Byte → Option Unit
  | [] => some ()
  | _ :: _ => none

/-- The operand bytes of format C: `arg`. -/
def fieldsC : List Byte → Option U32
  | [b1, b2, b3, b4] => some (le32 b1 b2 b3 b4)
  | _ => none

/-- The operand bytes of format S: `n`. -/
def fieldsS : List Byte → Option U16
  | [b1, b2] => some (le16 b1 b2)
  | _ => none

/-- The operand bytes of format R: `addr`, `len`. -/
def fieldsR : List Byte → Option (U32 × U16)
  | [b1, b2, b3, b4, b5, b6] => some (le32 b1 b2 b3 b4, le16 b5 b6)
  | _ => none

/-- The operand bytes of format W: `addr`, `len` and exactly `len` bytes of data. -/
def fieldsW : List Byte → Option (U32 × List Byte)
  | b1 :: b2 :: b3 :: b4 :: b5 :: b6 :: data =>
    if data.length = (le16 b5 b6).toNat then some (le32 b1 b2 b3 b4, data) else none
  | _ => none

/-- The operands of an operation from the bytes after the opcode (R72, R73). -/
def decodeOperands (op : Opcode) (bs : List Byte) : Option Instr :=
  match op with
  | .write => (fieldsW bs).map fun f => .write f.1 f.2
  | .read => (fieldsR bs).map fun f => .read f.1 f.2
  | .size => (fieldsQ bs).map fun _ => .size
  | .addr => (fieldsQ bs).map fun _ => .addr
  | .start => (fieldsQ bs).map fun _ => .start
  | .stop => (fieldsQ bs).map fun _ => .stop
  | .exit => (fieldsQ bs).map fun _ => .exit
  | .setrate => (fieldsC bs).map .setrate
  | .seek => (fieldsC bs).map .seek
  | .pull => (fieldsS bs).map .pull
  | .mix => (fieldsS bs).map .mix

/-- The operation of a descriptor presented alone, or the reason it is rejected (R76, R78, R178). -/
def decode (d : Descriptor) : Except DecodeError Instr :=
  match d with
  | [] => .error .empty
  | opc :: operands =>
    match Opcode.ofByte? opc with
    | none => .error (.reservedOpcode opc)
    | some op =>
      match decodeOperands op operands with
      | some i => .ok i
      | none => .error (.wrongLength op)

/-- The descriptor of an operation (R72). -/
def encode (i : Instr) : Descriptor :=
  i.opcode.code ::
    match i with
    | .write a data => bytes32 a ++ bytes16 (BitVec.ofNat 16 data.length) ++ data
    | .read a len => bytes32 a ++ bytes16 len
    | .size => []
    | .addr => []
    | .start => []
    | .stop => []
    | .exit => []
    | .setrate hz => bytes32 hz
    | .seek time => bytes32 time
    | .pull n => bytes16 n
    | .mix n => bytes16 n

/-- The length `L` of a descriptor by its format and, for format W, its field `len` (R75). -/
def Format.length (f : Format) (len : Nat) : Nat :=
  match f with
  | .q => 1
  | .c => 5
  | .s => 3
  | .r => 7
  | .w => 7 + len

/-- The field `len` in bytes 5 and 6 of a byte sequence, 0 where it is not there. -/
def lenField : List Byte → Nat
  | _ :: _ :: _ :: _ :: _ :: b5 :: b6 :: _ => (le16 b5 b6).toNat
  | _ => 0

/-- How many bytes the first descriptor of a byte stream takes (R75);
a reserved opcode takes one byte, so that the decoder resynchronises at the next (R78). -/
def streamLength (bs : List Byte) : Nat :=
  match bs with
  | [] => 0
  | opc :: _ =>
    match Opcode.ofByte? opc with
    | none => 1
    | some op => op.format.length (lenField bs)

/-- `splitStream` with a bound on the number of descriptors. -/
def splitStreamUpTo : Nat → List Byte → List Descriptor
  | 0, _ => []
  | _ + 1, [] => []
  | k + 1, b :: bs =>
    (b :: bs).take (streamLength (b :: bs)) :: splitStreamUpTo k ((b :: bs).drop (streamLength (b :: bs)))

/-- A stream of descriptors cut into descriptors: the next one starts at byte `L` (R75, R78).
DESIGN CHOICE (log entry 6): bytes at the end that are too few for their format are one descriptor, which decode rejects; safe. -/
def splitStream (bs : List Byte) : List Descriptor :=
  splitStreamUpTo bs.length bs

/-- Byte `k` of an instruction given as one number, bit 0 the least significant bit of its first byte. -/
def tableByte (w k : Nat) : Byte := BitVec.ofNat 8 (w >>> (8 * k))

/-- The descriptor of a row's bits `w`, as many as `nbits` says and every bit above them 0, in the length R75 gives it. -/
def tableBytes (nbits w : Nat) : Descriptor :=
  let v := w % 2 ^ nbits
  (List.range (streamLength ((List.range 7).map (tableByte v)))).map (tableByte v)

/-- What the decoder reads from a row's bits. -/
def decodeTableWord (nbits w : Nat) : Option Instr :=
  match decode (tableBytes nbits w) with
  | .ok i => some i
  | .error _ => none

end Sys2Proof
end

