-- ==== Sys2Proof/Machine/Memory.lean ====
section
/-! DEFINITION. The register file `reg[0..511]` as a sparse memory in canonical form
(spec 10_state.md rule R24, 20_memory.md rules R51, R52, R63). Every byte is plain storage: no address has a side effect (R56). -/

namespace Sys2Proof

/-- What an offset that the list does not hold reads as: the decided default of `REG_RESET`, 0x00 (R5, D11). -/
def Memory.blank : Byte := 0x00#8

/-- The canonical form: offsets strictly rising, each in the register file, no entry equal to what an unlisted offset reads as. -/
abbrev Memory.wf (m : Memory) : Prop :=
  m.Pairwise (fun a b => a.1 < b.1) ∧ ∀ c ∈ m, c.1 < sndMemoryLength ∧ c.2 ≠ Memory.blank

/-- `reg[o]` (R8). -/
def Memory.load (m : Memory) (o : Nat) : Byte :=
  match m.find? (fun c => c.1 == o) with
  | some c => c.2
  | none => Memory.blank

/-- `reg[o] <- b` (R8), keeping the canonical form. -/
def Memory.store (m : Memory) (o : Nat) (b : Byte) : Memory :=
  m.filter (fun c => decide (c.1 < o)) ++ (if b = Memory.blank then [] else [(o, b)]) ++
    m.filter (fun c => decide (o < c.1))

/-- `reg[o + k] <- v[k]` for every `k`, in ascending order (R51). -/
def Memory.storeBytes (m : Memory) (o : Nat) : List Byte → Memory
  | [] => m
  | b :: bs => Memory.storeBytes (m.store o b) (o + 1) bs

/-- `[reg[o], ..., reg[o + n - 1]]` (R52). -/
def Memory.loadBytes (m : Memory) (o n : Nat) : List Byte :=
  (List.range n).map fun k => m.load (o + k)

/-- `reg[64c .. 64c + 63]`, the slice of channel `c` (R63). -/
def Memory.slice (m : Memory) (c : ChannelNo) : Slice :=
  Vector.ofFn fun k : Fin sliceLen => m.load (sliceLen * c.val + k.val)

end Sys2Proof
end

