-- ==== Sys2Proof/Config.lean ====
section
/-! DEFINITION. What construction fixes (spec 00_scope.md rule R5, 10_state.md rule R33).
`Params` is the record of the construction parameters; no step changes it, and every statement is about every value of it.
`Channel` is the parameter CHANNEL: a pair of functions, total and pure because they are Lean functions (R110, R111). -/

namespace Sys2Proof

/-- The construction parameters of rule R5.
`baseAddr` is OPEN in the spec; its type is the constraint `BASE_ADDR + 512 <= 2^32` (R5, 92_eei_decisions.md D4),
so a configuration outside the spec cannot be written (93_implementation_defined.md U13). -/
structure Params where
  /-- `BASE_ADDR`, at most `2^32 - 512`. -/
  baseAddr : Fin 4294966785
  /-- `SAMPLE_RATE`, in samples per second. -/
  sampleRate : U32
  /-- `TICK_RATE_RESET`, in hertz. -/
  tickRateReset : Nat
  /-- `REG_RESET`, as a sparse memory: an offset it does not list is 0x00. -/
  regReset : Memory
  deriving DecidableEq, Repr

/-- The decided defaults of rule R5, and for the OPEN `BASE_ADDR` the value the test vectors use (0x8000).
DESIGN CHOICE (log entry 1): the base address of `State.reset`; unsafe for a claim about `State.reset` that rests on it. -/
def Params.vectors : Params where
  baseAddr := 0x8000
  sampleRate := 44100
  tickRateReset := 60
  regReset := []

/-- The channel contract (R110): `CH_CONFIGURE(c, slice)` and `CH_RENDER(c, p, t)` over a parameter type `P`.
`render` also takes the WaveTable, the one thing beside its operands that it may read (R111 b). -/
structure Channel (P : Type) where
  configure : ChannelNo → Slice → P
  render : ChannelNo → WaveTable → P → U32 → S16

end Sys2Proof
end

