-- ==== Sys2Proof/Machine/Operands.lean ====
section
/-! DEFINITION. The operand forms (spec 20_memory.md rules R50 to R52, 41_bus_ops.md, 43_synthesis.md rule R130):
the one addressing mode, an absolute address; the clipping of a transfer; the tick period of a rate. -/

namespace Sys2Proof.Machine

/-- `o = addr - BASE_ADDR` where `addr` lies in the window `[BASE_ADDR, BASE_ADDR + 512)`, else nothing (R50, R51). -/
def windowOffset (p : Params) (addr : U32) : Option Nat :=
  if p.baseAddr.val ≤ addr.toNat ∧ addr.toNat < p.baseAddr.val + sndMemoryLength then
    some (addr.toNat - p.baseAddr.val)
  else none

/-- `count = min(n, 512 - o)`: truncated at the end of the window (R51, R52). -/
def clipCount (o n : Nat) : Nat := min n (sndMemoryLength - o)

/-- `BASE_ADDR` as the u32 that ADDR answers (R103). -/
def baseAddrWord (p : Params) : U32 := BitVec.ofNat 32 p.baseAddr.val

/-- `max(1, SAMPLE_RATE div hz)` (R130, R190). -/
def tickPeriodOf (sampleRate : U32) (hz : Nat) : U32 :=
  BitVec.ofNat 32 (max 1 (sampleRate.toNat / hz))

end Sys2Proof.Machine
end

