-- ==== Sys2Proof/Machine/Flags.lean ====
section
/-! DEFINITION. The arithmetic conventions of every rule (spec 00_scope.md rule R7).
The generator has no flags (43_synthesis.md rule R136, 70_reset_and_hazards.md rule R200): saturation is silent. -/

namespace Sys2Proof

/-- `x asr k`: `floor(x / 2^k)` (R7); Lean's division by a positive divisor is floor. -/
def asr (x : Int) (k : Nat) : Int := x / 2 ^ k

/-- `sat16(x)` as an integer: clamped to the s16 range (R7). -/
def clamp16 (x : Int) : Int :=
  if x < -32768 then -32768 else if 32767 < x then 32767 else x

/-- `sat16(x)` as an s16 (R7, R136). -/
def sat16 (x : Int) : S16 := BitVec.ofInt 16 (clamp16 x)

/-- `level[L] = (2*L - 15) * 2176`, the amplitude of a nibble (R90, R91, R121). -/
def level (l : Nat) : Int := (2 * (l : Int) - 15) * 2176

end Sys2Proof
end

