-- ==== Sys2Proof/Machine/WaveTable.lean ====
section
/-! DEFINITION. The WaveTable (spec 40_wavetable.md rules R89 to R93): WT.CONSTRUCT and WT.AT. -/

namespace Sys2Proof.Machine

/-- `WT.CONSTRUCT`: 16 nibble levels in rising order, each in 4 consecutive entries (R90). -/
def wtConstruct : WaveTable :=
  Vector.ofFn fun i : Fin wtLen => BitVec.ofInt 16 (level (i.val / 4))

/-- `WT.AT(index)`: `samples[index mod 64]`, always total (R92). -/
def wtAt (wt : WaveTable) (index : U16) : S16 :=
  wt[index.toNat % wtLen]'(Nat.mod_lt _ (by decide))

end Sys2Proof.Machine
end

