-- ==== Sys2Proof/Machine/ReferenceChannel.lean ====
section
/-! DEFINITION. The reference channel (spec 42_channel.md rules R114 to R123), the default of the parameter CHANNEL:
CH_CONFIGURE and CH_RENDER, and the fields of a slice. -/

namespace Sys2Proof.Machine

/-- `EN`, bit 0 of `CTRL` at offset 4; bits 7:1 are ignored (R118). -/
def chEnabled (p : Slice) : Bool := p[4].getLsbD 0

/-- `F`, `FREQ_LO` at offset 0 and `FREQ_HI` at offset 1 (R115). -/
def chFreq (p : Slice) : U16 := le16 p[0] p[1]

/-- `V`, bits 3:0 of `VOL` at offset 2; bits 7:4 are ignored (R116). -/
def chVolume (p : Slice) : Nat := lowNibble p[2]

/-- `W`, the selector at offset 3, as it was written (R117). -/
def chSelector (p : Slice) : Byte := p[3]

/-- `own(i)`: the nibble of `WAVERAM` for entry `i`, the high nibble first (R119). -/
def chOwn (p : Slice) (i : Fin wtLen) : Nat :=
  let b := p[32 + i.val / 2]'(by have := i.isLt; simp only [wtLen, sliceLen] at *; omega)
  if i.val % 2 = 0 then highNibble b else lowNibble b

/-- `ph = (F * (t mod 65536)) mod 65536` (R121). -/
def chPhase (p : Slice) (t : U32) : Nat :=
  ((chFreq p).toNat * (t.toNat % 65536)) % 65536

/-- `i = ph >> 10`, the table index 0 to 63 (R121). -/
def chEntry (p : Slice) (t : U32) : Fin wtLen :=
  ⟨chPhase p t / 1024, by unfold chPhase; simp only [wtLen]; omega⟩

/-- The wave value `w`: selector 1 plays the channel's own wave memory, selector 0 and every undefined selector
2 to 255 the shared WaveTable (R117, R121). -/
def chWave (wt : WaveTable) (p : Slice) (i : Fin wtLen) : Int :=
  if chSelector p = 0x01#8 then level (chOwn p i) else (wtAt wt (BitVec.ofNat 16 i.val)).toInt

/-- `CH_CONFIGURE(c, slice)`: the latch is a verbatim copy, whatever `c` is (R120). -/
def chConfigure (_c : ChannelNo) (slice : Slice) : Slice := slice

/-- `CH_RENDER(c, p, t)` (R121). -/
def chRender (_c : ChannelNo) (wt : WaveTable) (p : Slice) (t : U32) : S16 :=
  if chEnabled p then BitVec.ofInt 16 (asr (chWave wt p (chEntry p t) * (chVolume p : Int)) 4) else 0#16

/-- The default of the parameter CHANNEL (R5, D15). -/
def referenceChannel : Channel Slice where
  configure := chConfigure
  render := chRender

end Sys2Proof.Machine
end

