-- ==== Sys2Proof/Machine/State.lean ====
section
/-! DEFINITION. The state of the machine as plain data.
`Generator` is the record of spec 10_state.md rule R20, field by field, and nothing else.
`State` puts around it what a run needs besides: the construction parameters (R33), the environment's pending requests and the
order in which they are taken (20_memory.md rules R57 to R59, 30_encoding.md rule R71), and the observations (R33, R77, R80). -/

namespace Sys2Proof.Machine

/-- The complete state of the generator (R20), over the parameter type `P` of the channel in use (R25, R110). -/
structure Generator (P : Type) where
  /-- the WaveTable, written at construction only (R23) -/
  samples : WaveTable
  /-- the register file (R24) -/
  reg : Memory
  /-- the latched channel parameters, written by TICK only (R25) -/
  lat : Vector P nChannels
  /-- the sample-time counter (R26) -/
  t : U32
  /-- the value of `t` at which the next TICK happens (R27) -/
  nextTick : U32
  /-- the number of samples between two ticks, a reload value (R28) -/
  tickPeriod : U32
  /-- streaming is active only while this is set (R29) -/
  playing : Bool
  /-- EXIT has been performed (R30) -/
  released : Bool
  deriving DecidableEq, Repr

/-- The status codes (60_exceptions.md rule R172). -/
inductive Status where
  /-- 0x00: the operation was performed, possibly with a short count -/
  | ok
  /-- 0x01: reserved opcode -/
  | errOpcode
  /-- 0x02: wrong length or empty descriptor -/
  | errFormat
  /-- 0x03: SETRATE with `hz = 0` -/
  | errArg
  /-- 0x04: SEEK, always -/
  | errUnsupported
  /-- 0x05: START while `released = 1` -/
  | errReleased
  deriving DecidableEq, Repr

/-- The result record (R77); a field an operation does not use is 0 or empty. -/
structure Result where
  status : Status
  /-- bytes applied or returned, samples produced -/
  count : U16 := 0#16
  /-- SIZE, ADDR -/
  value : U32 := 0#32
  /-- READ -/
  data : List Byte := []
  /-- PULL, MIX, in time order -/
  samples : List S16 := []
  /-- PULL: the stream goes on -/
  more : Bool := false
  deriving DecidableEq, Repr

/-- A result as it goes out: at the port where the request came in (R71). -/
structure Response where
  port : Port
  result : Result
  deriving DecidableEq, Repr

/-- One entry of the environment's interleaving (20_memory.md rules R57, R58): which port moves next, or,
inside a MIX or a playing PULL, that the next SAMPLE is taken now. -/
inductive Turn where
  | port (p : Port)
  | sample
  deriving DecidableEq, Repr

/-- The machine, over the parameter type `P` of the channel in use (R25, R110).
`State` alone is the machine with the reference channel, the default of the parameter CHANNEL (R5). -/
structure State (P : Type := Slice) where
  /-- construction parameters; no step writes them (R33) -/
  params : Params
  /-- the generator's own state (R20) -/
  gen : Generator P
  /-- requests of the bus agent not yet taken, oldest first (R57, R71) -/
  busPort : List Descriptor
  /-- requests of the stream agent not yet taken, oldest first -/
  streamPort : List Descriptor
  /-- requests of the control agent not yet taken, oldest first -/
  controlPort : List Descriptor
  /-- the interleaving of the agents still to come (R58); free: a statement holds for every one -/
  schedule : List Turn
  /-- the port whose request is being served -/
  active : Port
  /-- results in order of completion (R77, R206): an observation, read back by no rule -/
  results : List Response
  /-- the output sample stream (R33, R71): an observation -/
  sampleOut : List S16
  /-- the payloads of the `tick_evt` events, in order (R80, R176): an observation -/
  tickOut : List U32
  deriving DecidableEq, Repr

/-- The generator has no trap, fault or stop: every operation completes with a result record (R170), so no constructor. -/
inductive Fault
  deriving DecidableEq, Repr

/-- Refusals of the model. -/
inductive Refusal where
  /-- raised by an arm of `exec` for an operation that has no meaning yet (none); safe -/
  | notModelled (mnemonic : String)
  deriving DecidableEq, Repr

/-- The reset procedure (70_reset_and_hazards.md rule R190): construction with the parameters `p` and the channel `ch` (R33).
No sample, no event and no result; no request pending (log entries 2, 3). -/
def State.constructOf {P : Type} (ch : Channel P) (p : Params) : State P where
  params := p
  gen := {
    samples := wtConstruct
    reg := p.regReset
    lat := Vector.ofFn fun c => ch.configure c (p.regReset.slice c)
    t := 0#32
    nextTick := 0#32
    tickPeriod := tickPeriodOf p.sampleRate p.tickRateReset
    playing := false
    released := false }
  busPort := []
  streamPort := []
  controlPort := []
  schedule := []
  active := .bus
  results := []
  sampleOut := []
  tickOut := []

/-- Construction with the default of the parameter CHANNEL, the reference channel (R5). -/
def State.construct (p : Params) : State := State.constructOf referenceChannel p

/-- The machine right after reset, at the decided defaults of R5 and the vectors' `BASE_ADDR` (log entry 1). -/
def State.reset : State := State.construct Params.vectors

end Sys2Proof.Machine
end

