-- ==== Sys2Proof/Machine/Ops.lean ====
section
/-! DEFINITION. The shared operations: the micro-operations CALCNEXT, TICK and SAMPLE over any channel
(spec 43_synthesis.md rules R131 to R136), the bus operations (20_memory.md, 41_bus_ops.md), completing and rejecting an
operation (30_encoding.md rule R77, 60_exceptions.md rules R170 to R172), the requests at the ports and their interleaving
with the samples of a MIX (20_memory.md rules R57 to R60). -/

namespace Sys2Proof.Machine

variable {P : Type}

/-! ### The generator -/

/-- `CALCNEXT`: `nextTick <- u32(t + tickPeriod)` (R131). -/
def Generator.calcNext (g : Generator P) : Generator P :=
  { g with nextTick := g.t + g.tickPeriod }

/-- Step 1 of TICK: all eight `lat[c]` from the same register contents (R133). -/
def Generator.latch (ch : Channel P) (g : Generator P) : Generator P :=
  { g with lat := Vector.ofFn fun c => ch.configure c (g.reg.slice c) }

/-- `TICK`: latch, then CALCNEXT (R133); its event is emitted by `State.sampleStep`. -/
def Generator.tick (ch : Channel P) (g : Generator P) : Generator P :=
  (g.latch ch).calcNext

/-- The compare `t == nextTick` at the start of a sample slot (R132, R134 b). -/
def Generator.tickDue (g : Generator P) : Bool := g.t == g.nextTick

/-- A sample slot before its render: TICK where it is due (R134 a). -/
def Generator.openSlot (ch : Channel P) (g : Generator P) : Generator P :=
  if g.tickDue then g.tick ch else g

/-- The exact sum of the eight rendered amplitudes (R134 c, R136). -/
def Generator.mixSum (ch : Channel P) (g : Generator P) : Int :=
  ((List.finRange nChannels).map fun c => (ch.render c g.samples (g.lat[c.val]) g.t).toInt).sum

/-- `SAMPLE` (R134): the next generator state and the sample. -/
def Generator.sample (ch : Channel P) (g : Generator P) : Generator P × S16 :=
  let g1 := g.openSlot ch
  ({ g1 with t := g1.t + 1#32 }, sat16 (g1.mixSum ch))

/-- The event of a sample slot: `tick_evt(t)` where a TICK is due, else none (R133, R176). -/
def Generator.slotEvents (g : Generator P) : List U32 :=
  if g.tickDue then [g.t] else []

/-- `MemWrite(addr, n, v)` (R51): the register file after it and the count. -/
def Generator.memWrite (p : Params) (addr : U32) (v : List Byte) (g : Generator P) : Generator P × Nat :=
  match windowOffset p addr with
  | none => (g, 0)
  | some o => ({ g with reg := g.reg.storeBytes o (v.take (clipCount o v.length)) }, clipCount o v.length)

/-- `MemRead(addr, n)` (R52): the bytes, `count` of them. -/
def Generator.memRead (p : Params) (addr : U32) (n : Nat) (g : Generator P) : List Byte :=
  match windowOffset p addr with
  | none => []
  | some o => g.reg.loadBytes o (clipCount o n)

/-! ### Completing an operation -/

/-- The code of a status (R172). -/
def Status.code : Status → Byte
  | .ok => 0x00#8
  | .errOpcode => 0x01#8
  | .errFormat => 0x02#8
  | .errArg => 0x03#8
  | .errUnsupported => 0x04#8
  | .errReleased => 0x05#8

/-- `return {...}`: the result record goes out at the port of the request (R8, R71, R77). -/
def State.respond (s : State P) (r : Result) : State P :=
  { s with results := s.results ++ [⟨s.active, r⟩] }

/-- `reject(code)`: complete with `status = code`, no data, no change to any state (R8, R170). -/
def State.reject (s : State P) (code : Status) : State P :=
  s.respond { status := code }

/-- The status of a descriptor that decode rejects (R76, R78, R178). -/
def decodeStatus : DecodeError → Status
  | .empty => .errFormat
  | .reservedOpcode _ => .errOpcode
  | .wrongLength _ => .errFormat

/-- `emit sample(v)` for each value (R8). -/
def State.emitSamples (s : State P) (vs : List S16) : State P :=
  { s with sampleOut := s.sampleOut ++ vs }

/-- `emit tick_evt(v)` for each value (R8, R80). -/
def State.emitTicks (s : State P) (vs : List U32) : State P :=
  { s with tickOut := s.tickOut ++ vs }

/-- One SAMPLE with its outputs: the event of its tick, then the sample (R133, R134). -/
def State.sampleStep (ch : Channel P) (s : State P) : State P × S16 :=
  let r := s.gen.sample ch
  (({ s with gen := r.1 }.emitTicks s.gen.slotEvents).emitSamples [r.2], r.2)

/-! ### The bus operations -/

/-- WRITE: MemWrite, then the count (R100). -/
def State.busWrite (addr : U32) (data : List Byte) (s : State P) : State P :=
  let r := s.gen.memWrite s.params addr data
  { s with gen := r.1 }.respond { status := .ok, count := BitVec.ofNat 16 r.2 }

/-- READ: MemRead, then the count and the bytes (R101). -/
def State.busRead (addr : U32) (len : U16) (s : State P) : State P :=
  let bytes := s.gen.memRead s.params addr len.toNat
  s.respond { status := .ok, count := BitVec.ofNat 16 bytes.length, data := bytes }

/-- SIZE: 512 (R102). -/
def State.busSize (s : State P) : State P :=
  s.respond { status := .ok, value := BitVec.ofNat 32 sndMemoryLength }

/-- ADDR: `BASE_ADDR` (R103). -/
def State.busAddr (s : State P) : State P :=
  s.respond { status := .ok, value := baseAddrWord s.params }

/-- The effect of an operation that may be ordered between two SAMPLE steps: WRITE, READ, SIZE, ADDR, selected by the
opcode alone (R59, R71). Every other operation waits. -/
def State.busOp? (i : Instr) : Option (State P → State P) :=
  match i with
  | .write a data => some (State.busWrite a data)
  | .read a len => some (State.busRead a len)
  | .size => some State.busSize
  | .addr => some State.busAddr
  | .start => none
  | .stop => none
  | .exit => none
  | .setrate _ => none
  | .seek _ => none
  | .pull _ => none
  | .mix _ => none

/-! ### Requests at the ports -/

/-- The requests waiting at a port, oldest first. -/
def State.pending (s : State P) : Port → List Descriptor
  | .bus => s.busPort
  | .stream => s.streamPort
  | .control => s.controlPort

/-- The same with the requests at one port replaced. -/
def State.setPending (s : State P) (p : Port) (q : List Descriptor) : State P :=
  match p with
  | .bus => { s with busPort := q }
  | .stream => { s with streamPort := q }
  | .control => { s with controlPort := q }

/-- An agent issues one request (R57, R71): it goes behind the earlier requests of its port. -/
def State.issue (s : State P) (p : Port) (d : Descriptor) : State P :=
  s.setPending p (s.pending p ++ [d])

/-- An agent issues a stream of descriptors (R75). -/
def State.issueStream (s : State P) (p : Port) (bs : List Byte) : State P :=
  s.setPending p (s.pending p ++ splitStream bs)

/-- A request that waits for the end of a running MIX or PULL: an operation of the stream or the control agent, by its opcode
alone, well formed or not (R57, R59, R71, R173). A reserved opcode and an empty descriptor are no operation (R173), and what
comes after them goes on as if they had never been issued (R179), so they do not wait. DEDUCED (log entry 9); safe. -/
def requestWaits (d : Descriptor) : Bool :=
  match d with
  | [] => false
  | opc :: _ =>
    match Opcode.ofByte? opc with
    | none => false
    | some op => op.port != Port.bus

/-- What a request does that is ordered between two SAMPLE steps: a bus operation its effect, a malformed one its rejection. -/
def State.insideOp? (d : Descriptor) : Option (State P → State P) :=
  if requestWaits d then none
  else
    match decode d with
    | .ok i => State.busOp? i
    | .error e => some fun s => s.reject (decodeStatus e)

/-- The request at the head of port `p`, taken inside a MIX or a playing PULL where that is allowed: it is performed whole, as
one atomic step (R55, R58), and the port being served is again the one of the MIX.
Nothing where no request waits, where the request has to wait (R59), or where `p` is the port of the MIX or PULL itself: the
requests behind it on that port were issued after it (R58). -/
def State.serveInside (p : Port) (s : State P) : Option (State P) :=
  if p = s.active then none
  else
    match s.pending p with
    | [] => none
    | d :: q =>
      match State.insideOp? d with
      | none => none
      | some op => some { op { s.setPending p q with active := p } with active := s.active }

/-- The turns before the next SAMPLE of a MIX or a playing PULL, up to and including the turn that says the sample is taken.
A turn of a port with a request that may not be taken here stays in the schedule: the request takes effect after the
MIX or PULL completes (R58, R59, R201). A turn of a port where nothing waits is dropped (log entry 4). -/
def State.serveTurns : List Turn → State P → State P
  | [], s => { s with schedule := [] }
  | .sample :: rest, s => { s with schedule := rest }
  | .port p :: rest, s =>
    match s.serveInside p with
    | some s' => State.serveTurns rest s'
    | none =>
      match s.pending p with
      | [] => State.serveTurns rest s
      | _ :: _ =>
        let s' := State.serveTurns rest s
        { s' with schedule := .port p :: s'.schedule }

/-- The `n` repetitions of MIX (R135): before each SAMPLE the requests that are ordered there (R58, R59). -/
def State.sampleSlots (ch : Channel P) : Nat → State P → State P × List S16
  | 0, s => (s, [])
  | n + 1, s =>
    let r := (State.serveTurns s.schedule s).sampleStep ch
    let rest := State.sampleSlots ch n r.1
    (rest.1, r.2 :: rest.2)

/-- The body of MIX and of a playing PULL (R135, R150): `n` SAMPLEs and one result record. -/
def State.runMix (ch : Channel P) (n : U16) (more : Bool) (s : State P) : State P :=
  let r := State.sampleSlots ch n.toNat s
  r.1.respond { status := .ok, count := n, samples := r.2, more := more }

/-- The oldest request of the first port, in the order bus, control, stream, where one waits. -/
def State.firstPending (s : State P) : Option Port :=
  if s.busPort ≠ [] then some .bus
  else if s.controlPort ≠ [] then some .control
  else if s.streamPort ≠ [] then some .stream
  else none

/-- The request at the head of port `p` taken out, and `p` the port being served. -/
def State.take (s : State P) (p : Port) : Option (Descriptor × State P) :=
  match s.pending p with
  | [] => none
  | d :: q => some (d, { s.setPending p q with active := p })

/-- The next request between two operations: the one of the next turn whose port has a request (R58). Turns that name no
waiting request are dropped. DESIGN CHOICE (log entry 4): when the schedule is used up the ports are taken in the order
bus, control, stream; safe, since every order is some schedule. -/
def State.nextRequest : List Turn → State P → Option (Descriptor × State P)
  | [], s => s.firstPending.bind fun p => ({ s with schedule := [] } : State P).take p
  | .sample :: rest, s => State.nextRequest rest s
  | .port p :: rest, s =>
    match ({ s with schedule := rest } : State P).take p with
    | some r => some r
    | none => State.nextRequest rest s

/-- One step: the next request is taken from its port and decoded; `run` performs it, or its rejection is answered (R58, R178).
With no request nothing happens (44_stream_ops.md rule R156). -/
def State.serveNext (run : Instr → State P → Host.Outcome (State P) Fault Refusal) (s : State P) :
    Host.Outcome (State P) Fault Refusal :=
  match State.nextRequest s.schedule s with
  | none => .next s
  | some (d, s') =>
    match decode d with
    | .ok i => run i s'
    | .error e => .next (s'.reject (decodeStatus e))

end Sys2Proof.Machine
end

