-- ==== Sys2Proof/Machine/Bus.lean ====
section
/-! DEFINITION. The bus operations WRITE, READ, SIZE, ADDR (spec 41_bus_ops.md rules R100 to R104). -/

namespace Sys2Proof.Machine

variable {P : Type}

/-- WRITE (R100). -/
def execWrite (addr : U32) (data : List Byte) (s : State P) : Host.Outcome (State P) Fault Refusal :=
  .next (s.busWrite addr data)

/-- READ (R101). -/
def execRead (addr : U32) (len : U16) (s : State P) : Host.Outcome (State P) Fault Refusal :=
  .next (s.busRead addr len)

/-- SIZE (R102). -/
def execSize (s : State P) : Host.Outcome (State P) Fault Refusal :=
  .next s.busSize

/-- ADDR (R103). -/
def execAddr (s : State P) : Host.Outcome (State P) Fault Refusal :=
  .next s.busAddr

end Sys2Proof.Machine
end

