-- ==== Sys2Proof/Machine/Stream.lean ====
section
/-! DEFINITION. The stream and lifecycle operations PULL, SEEK, START, STOP, EXIT (spec 44_stream_ops.md rules R150 to R155). -/

namespace Sys2Proof.Machine

variable {P : Type}

/-- PULL with the channel `ch`: MIX while `playing`, which is read once at the start; otherwise silence and stream end
(R150). -/
def execPullOf (ch : Channel P) (n : U16) (s : State P) : Host.Outcome (State P) Fault Refusal :=
  if s.gen.playing then .next (s.runMix ch n true)
  else
    let silence : List S16 := List.replicate n.toNat 0#16
    .next ((s.emitSamples silence).respond { status := .ok, count := n, samples := silence, more := false })

/-- PULL with the reference channel (R5, R150). -/
def execPull (n : U16) (s : State) : Host.Outcome State Fault Refusal :=
  execPullOf referenceChannel n s

/-- SEEK: always rejected; the time is ignored (R151). -/
def execSeek (_time : U32) (s : State P) : Host.Outcome (State P) Fault Refusal :=
  .next (s.reject .errUnsupported)

/-- START: rejected after EXIT (R152). -/
def execStart (s : State P) : Host.Outcome (State P) Fault Refusal :=
  if s.gen.released then .next (s.reject .errReleased)
  else .next ({ s with gen := { s.gen with playing := true } }.respond { status := .ok })

/-- STOP (R153). -/
def execStop (s : State P) : Host.Outcome (State P) Fault Refusal :=
  .next ({ s with gen := { s.gen with playing := false } }.respond { status := .ok })

/-- EXIT (R154). -/
def execExit (s : State P) : Host.Outcome (State P) Fault Refusal :=
  .next ({ s with gen := { s.gen with playing := false, released := true } }.respond { status := .ok })

end Sys2Proof.Machine
end

