-- ==== Sys2Proof/Machine/Synthesis.lean ====
section
/-! DEFINITION. The synthesis operations SETRATE and MIX (spec 43_synthesis.md rules R130, R135, R138). -/

namespace Sys2Proof.Machine

variable {P : Type}

/-- SETRATE: `tickPeriod` only; the tick already scheduled stays where it is (R130, R138). -/
def execSetrate (hz : U32) (s : State P) : Host.Outcome (State P) Fault Refusal :=
  if hz = 0#32 then .next (s.reject .errArg)
  else .next
    ({ s with gen := { s.gen with tickPeriod := tickPeriodOf s.params.sampleRate hz.toNat } }.respond { status := .ok })

/-- MIX with the channel `ch`: `n` SAMPLEs, whatever `playing` and `released` are (R135). -/
def execMixOf (ch : Channel P) (n : U16) (s : State P) : Host.Outcome (State P) Fault Refusal :=
  .next (s.runMix ch n false)

/-- MIX with the reference channel (R5, R135). -/
def execMix (n : U16) (s : State) : Host.Outcome State Fault Refusal :=
  execMixOf referenceChannel n s

end Sys2Proof.Machine
end

