-- ==== Sys2Proof/Machine/Dispatch.lean ====
section
/-! DEFINITION. One arm per operation of spec/opcode_table.json, in the table's order. -/

namespace Sys2Proof.Machine

def exec (i : Instr) (s : State) : Host.Outcome State Fault Refusal :=
  match i with
  | .write a data => Sys2Proof.Machine.execWrite a data s
  | .read a len => Sys2Proof.Machine.execRead a len s
  | .size => Sys2Proof.Machine.execSize s
  | .addr => Sys2Proof.Machine.execAddr s
  | .start => Sys2Proof.Machine.execStart s
  | .stop => Sys2Proof.Machine.execStop s
  | .exit => Sys2Proof.Machine.execExit s
  | .setrate hz => Sys2Proof.Machine.execSetrate hz s
  | .seek time => Sys2Proof.Machine.execSeek time s
  | .pull n => Sys2Proof.Machine.execPull n s
  | .mix n => Sys2Proof.Machine.execMix n s

end Sys2Proof.Machine
end

