-- ==== Sys2Proof/Machine/Step.lean ====
section
/-! DEFINITION. One step: the next request is taken from its port, decoded and performed, or rejected
(spec 20_memory.md rule R58, 60_exceptions.md rule R178). With no request the generator does nothing (44_stream_ops.md rule R156). -/

namespace Sys2Proof.Machine

/-- One operation. It never faults and never refuses (R140, R170). -/
def step (s : State) : Host.Outcome State Fault Refusal :=
  s.serveNext exec

/-- `s` with the descriptor of a table row as the next request: at the head of the bus port, with the next turn the bus port's.
The opcode alone selects the operation (R71); log entry 5 says how a program comes to run. -/
def State.withFetchWord (s : State) (nbits w : Nat) : State :=
  { s with busPort := tableBytes nbits w :: s.busPort, schedule := .port .bus :: s.schedule }

end Sys2Proof.Machine
end

