-- ==== Sys2Proof/Machine/EveryChannel.lean ====
section
/-! DEFINITION. The machine with the channel functions as a parameter (spec 10_state.md rule R33, 42_channel.md rules R110, R111):
one operation and one step over any pair CH_CONFIGURE, CH_RENDER. `exec` and `step` are these at the reference channel. -/

namespace Sys2Proof.Machine

/-- One operation with the channel `ch`. -/
def execOf {P : Type} (ch : Channel P) (i : Instr) (s : State P) : Host.Outcome (State P) Fault Refusal :=
  match i with
  | .write a data => execWrite a data s
  | .read a len => execRead a len s
  | .size => execSize s
  | .addr => execAddr s
  | .start => execStart s
  | .stop => execStop s
  | .exit => execExit s
  | .setrate hz => execSetrate hz s
  | .seek time => execSeek time s
  | .pull n => execPullOf ch n s
  | .mix n => execMixOf ch n s

/-- One step with the channel `ch`. -/
def stepOf {P : Type} (ch : Channel P) (s : State P) : Host.Outcome (State P) Fault Refusal :=
  s.serveNext (execOf ch)

end Sys2Proof.Machine
end

