-- ==== Sys2Proof/Machine/Script.lean ====
section
/-! DEFINITION. The script syntax and the pseudo-operations (spec 30_encoding.md rules R81, R82).
A script names operations and the directive RESET; every pseudo-operation is one operation, so each is atomic (R82, R55). -/

namespace Sys2Proof.Machine

/-- `CH(c)` = `BASE_ADDR + 64*c` (R81). -/
def chAddr (p : Params) (c : ChannelNo) : U32 := BitVec.ofNat 32 (p.baseAddr.val + sliceLen * c.val)

/-- `WRITE16 <addr>, <v>` (R82). -/
def write16 (addr : U32) (v : U16) : Instr := .write addr (bytes16 v)

/-- `CHSET <c>, <F>, <V>, <W>, <EN>` (R82). -/
def chset (p : Params) (c : ChannelNo) (f : U16) (v w en : Byte) : Instr :=
  .write (chAddr p c) (bytes16 f ++ [v, w, en])

/-- `CHOFF <c>` (R82). -/
def choff (p : Params) (c : ChannelNo) : Instr := .write (chAddr p c + 4#32) [0x00#8]

/-- `WAVERAM <c>, <32 bytes>` (R82). -/
def waveram (p : Params) (c : ChannelNo) (bytes : Vector Byte 32) : Instr := .write (chAddr p c + 32#32) bytes.toList

/-- `SAVE` (R82). -/
def save (p : Params) : Instr := .read (baseAddrWord p) (BitVec.ofNat 16 sndMemoryLength)

/-- One line of a script (R81). -/
inductive ScriptLine where
  /-- one operation, written as itself or as a pseudo-operation -/
  | op (i : Instr)
  /-- the directive RESET: construction (R81, R190) -/
  | reset
  /-- `-> ...`: the expected result of the line before; nothing happens -/
  | expected
  /-- nothing but white space and a comment -/
  | blank
  deriving DecidableEq, Repr

/-- What a line does to the machine. A RESET keeps the construction parameters. -/
def ScriptLine.run (l : ScriptLine) (s : State) : Host.Outcome State Fault Refusal :=
  match l with
  | .op i => exec i s
  | .reset => .next (State.construct s.params)
  | .expected => .next s
  | .blank => .next s

/-! ### Reading a line of text -/

/-- The words of a line, split at white space and commas, up to a `;` (R81); `cur` holds the word being read, last character first. -/
def scriptWords : List Char → List Char → List (List Char)
  | [], cur => if cur = [] then [] else [cur.reverse]
  | c :: cs, cur =>
    if c = ';' then (if cur = [] then [] else [cur.reverse])
    else if c = ' ' ∨ c = ',' ∨ c = '\t' then
      (if cur = [] then scriptWords cs [] else cur.reverse :: scriptWords cs [])
    else scriptWords cs (c :: cur)

/-- The value of a digit. -/
def digitValue? (c : Char) : Option Nat :=
  if 48 ≤ c.toNat ∧ c.toNat ≤ 57 then some (c.toNat - 48)
  else if 65 ≤ c.toNat ∧ c.toNat ≤ 70 then some (c.toNat - 55)
  else if 97 ≤ c.toNat ∧ c.toNat ≤ 102 then some (c.toNat - 87)
  else none

/-- Digits in a base, after `acc`. -/
def readDigits (base : Nat) : Nat → List Char → Option Nat
  | acc, [] => some acc
  | acc, c :: cs => (digitValue? c).bind fun d => if d < base then readDigits base (acc * base + d) cs else none

/-- A number, decimal or with `0x` hexadecimal (R81). -/
def readNumber (w : List Char) : Option Nat :=
  match w with
  | [] => none
  | '0' :: 'x' :: d :: ds => readDigits 16 0 (d :: ds)
  | c :: cs => readDigits 10 0 (c :: cs)

/-- `BASE`, `CH(c)` or a number (R81). -/
def readTerm (p : Params) (w : List Char) : Option Nat :=
  match w with
  | ['B', 'A', 'S', 'E'] => some p.baseAddr.val
  | ['C', 'H', '(', d, ')'] =>
    (digitValue? d).bind fun c => if c < nChannels then some (p.baseAddr.val + sliceLen * c) else none
  | w => readNumber w

/-- The parts of a word between its `+` signs; `cur` as in `scriptWords`. -/
def splitPlus : List Char → List Char → List (List Char)
  | [], cur => [cur.reverse]
  | c :: cs, cur => if c = '+' then cur.reverse :: splitPlus cs [] else splitPlus cs (c :: cur)

/-- A sum of terms (R81). -/
def readSum (p : Params) (w : List Char) : Option Nat :=
  ((splitPlus w []).mapM (readTerm p)).map List.sum

/-- An operand that has to fit a field of `bits` bits. -/
def readField (p : Params) (bits : Nat) (w : List Char) : Option (BitVec bits) :=
  (readSum p w).bind fun v => if v < 2 ^ bits then some (BitVec.ofNat bits v) else none

/-- A channel number. -/
def readChannel (w : List Char) : Option ChannelNo :=
  (readNumber w).bind fun c => if h : c < nChannels then some ⟨c, h⟩ else none

/-- A byte of a WRITE or a WAVERAM: one or two hexadecimal digits, with or without `0x`.
DEDUCED (log entry 7): R81 says decimal or `0x`, and its examples in R83 write these bytes in bare hexadecimal; safe. -/
def readByte (w : List Char) : Option Byte :=
  let digits :=
    match w with
    | '0' :: 'x' :: ds => ds
    | ds => ds
  match digits with
  | [] => none
  | [_] => (readDigits 16 0 digits).map (BitVec.ofNat 8)
  | [_, _] => (readDigits 16 0 digits).map (BitVec.ofNat 8)
  | _ => none

/-- A line of a script by its words (R81, R82); nothing where it is no line of the syntax. -/
def readLine (p : Params) (ws : List (List Char)) : Option ScriptLine :=
  match ws with
  | [] => some .blank
  | m :: args =>
    if m = "->".toList then some .expected
    else if m = "RESET".toList then (if args = [] then some .reset else none)
    else if m = "SIZE".toList then (if args = [] then some (.op .size) else none)
    else if m = "ADDR".toList then (if args = [] then some (.op .addr) else none)
    else if m = "START".toList then (if args = [] then some (.op .start) else none)
    else if m = "STOP".toList then (if args = [] then some (.op .stop) else none)
    else if m = "EXIT".toList then (if args = [] then some (.op .exit) else none)
    else if m = "SAVE".toList then (if args = [] then some (.op (save p)) else none)
    else
      match args with
      | [] => none
      | a :: more =>
        if m = "WRITE".toList then
          (readField p 32 a).bind fun addr => (more.mapM readByte).bind fun data =>
            if data.length < 65536 then some (.op (.write addr data)) else none
        else if m = "WAVERAM".toList then
          (readChannel a).bind fun c => (more.mapM readByte).bind fun data =>
            if h : data.length = 32 then some (.op (waveram p c ⟨data.toArray, by simpa using h⟩)) else none
        else
          match more with
          | [] =>
            if m = "SETRATE".toList then (readField p 32 a).map fun hz => .op (.setrate hz)
            else if m = "SEEK".toList then (readField p 32 a).map fun time => .op (.seek time)
            else if m = "PULL".toList then (readField p 16 a).map fun n => .op (.pull n)
            else if m = "MIX".toList then (readField p 16 a).map fun n => .op (.mix n)
            else if m = "CHOFF".toList then (readChannel a).map fun c => .op (choff p c)
            else none
          | [b] =>
            if m = "READ".toList then
              (readField p 32 a).bind fun addr => (readField p 16 b).map fun len => .op (.read addr len)
            else if m = "WRITE16".toList then
              (readField p 32 a).bind fun addr => (readField p 16 b).map fun v => .op (write16 addr v)
            else none
          | [b, d, e, f] =>
            if m = "CHSET".toList then
              (readChannel a).bind fun c => (readField p 16 b).bind fun freq => (readField p 8 d).bind fun v =>
                (readField p 8 e).bind fun w => (readField p 8 f).map fun en => .op (chset p c freq v w en)
            else none
          | _ => none

/-- A line of text (R81). -/
def parseLine (p : Params) (text : String) : Option ScriptLine := readLine p (scriptWords text.toList [])

end Sys2Proof.Machine
end

