-- ==== Sys2Proof/Safety.lean ====
section
/-! DEFINITION. The terms in which claims about runs are made: the configurations the spec admits, the lifecycle, the
invariants of the machine, and the total order of atomic steps of 20_memory.md rule R58. -/

/-- The constraints of rule R5 that the types do not carry, with `REG_RESET` in canonical form. -/
abbrev Sys2Proof.Params.Wf (p : Sys2Proof.Params) : Prop :=
  1 ≤ p.sampleRate.toNat ∧ 1 ≤ p.tickRateReset ∧ p.regReset.wf

namespace Sys2Proof.Machine

/-- The three lifecycle states (44_stream_ops.md rule R156). -/
inductive Lifecycle where
  | idle | streaming | released
  deriving DecidableEq, Repr

/-- The lifecycle state of the two bits; `playing = 1` with `released = 1` is none (R156). -/
def Generator.lifecycle? {P : Type} (g : Generator P) : Option Lifecycle :=
  match g.playing, g.released with
  | false, false => some .idle
  | true, false => some .streaming
  | false, true => some .released
  | true, true => none

/-- What every step keeps: the register file in canonical form, `tickPeriod >= 1` (R28), a legal lifecycle state (R156). -/
abbrev State.Inv {P : Type} (s : State P) : Prop :=
  s.gen.reg.wf ∧ 1 ≤ s.gen.tickPeriod.toNat ∧ s.gen.lifecycle? ≠ none

/-- `u32(nextTick - t)`: how many SAMPLEs come before the next TICK (R31). -/
def Generator.tickDistance {P : Type} (g : Generator P) : Nat := (g.nextTick - g.t).toNat

/-- Invariant I-TICK for a last period `last` (10_state.md rule R31). -/
abbrev Generator.TickWithin {P : Type} (last : Nat) (g : Generator P) : Prop := g.tickDistance < last

/-- Invariant I-LAT: `lat[c] = CH_CONFIGURE(c, reg[64c .. 64c+63])` for every `c` (10_state.md rule R32). -/
def Generator.Latched {P : Type} (ch : Channel P) (g : Generator P) : Prop :=
  ∀ c : ChannelNo, g.lat[c.val] = ch.configure c (g.reg.slice c)

/-- The frequency channel `c` plays: the one in its latch (R25, R115). -/
def Generator.freqLatched (g : Generator Slice) (c : ChannelNo) : U16 := chFreq g.lat[c.val]

/-- The frequency that stands in the registers of channel `c` (R115). -/
def Generator.freqWritten (g : Generator Slice) (c : ChannelNo) : U16 :=
  le16 (g.reg.load (sliceLen * c.val)) (g.reg.load (sliceLen * c.val + 1))

/-- One atomic step of the total order inside a MIX or a playing PULL (R58): a SAMPLE or a whole bus operation. -/
inductive Action where
  | sample
  | bus (i : Instr)
  deriving DecidableEq, Repr

/-- What a bus operation does to the generator: a WRITE writes the register file, the others nothing (R56). -/
def Generator.busAction {P : Type} (p : Params) (i : Instr) (g : Generator P) : Generator P :=
  match i with
  | .write a data => (g.memWrite p a data).1
  | _ => g

/-- What a sequence of atomic steps does: the generator after it, its samples and its tick events (R58). -/
def Generator.runActions {P : Type} (ch : Channel P) (p : Params) :
    List Action → Generator P → Generator P × List S16 × List U32
  | [], g => (g, [], [])
  | .sample :: rest, g =>
    let r := Generator.runActions ch p rest (g.sample ch).1
    (r.1, (g.sample ch).2 :: r.2.1, g.slotEvents ++ r.2.2)
  | .bus i :: rest, g => Generator.runActions ch p rest (g.busAction p i)

/-- One atomic step as the ports see it: a SAMPLE, or the request `d` of port `p` (R55, R58). -/
inductive AtomicStep where
  | sample
  | request (p : Port) (d : Descriptor)
  deriving DecidableEq, Repr

/-- What an atomic step does to the generator; a rejected request does nothing (R170). -/
def AtomicStep.action? : AtomicStep → Option Action
  | .sample => some .sample
  | .request _ d =>
    match decode d with
    | .ok i => some (.bus i)
    | .error _ => none

/-- The request an atomic step takes from port `p`. -/
def AtomicStep.requestAt? (p : Port) : AtomicStep → Option Descriptor
  | .sample => none
  | .request p' d => if p' = p then some d else none

/-- What a request answers that is ordered inside a MIX, from the generator as it stands there (R58 a, R100 to R103, R178). -/
def Generator.answer? {P : Type} (p : Params) (d : Descriptor) (g : Generator P) : Option Result :=
  match decode d with
  | .error e => some { status := decodeStatus e }
  | .ok (.write a data) => some { status := .ok, count := BitVec.ofNat 16 (g.memWrite p a data).2 }
  | .ok (.read a len) =>
    some {
      status := .ok
      count := BitVec.ofNat 16 (g.memRead p a len.toNat).length
      data := g.memRead p a len.toNat }
  | .ok .size => some { status := .ok, value := 512#32 }
  | .ok .addr => some { status := .ok, value := baseAddrWord p }
  | .ok _ => none

/-- The answers of a sequence of atomic steps, each at the port of its request (R71), and each from what the steps before it
left (R58). -/
def Generator.answers {P : Type} (ch : Channel P) (p : Params) : List AtomicStep → Generator P → List Response
  | [], _ => []
  | .sample :: rest, g => Generator.answers ch p rest (g.sample ch).1
  | .request port d :: rest, g =>
    ((g.answer? p d).toList.map fun r => ⟨port, r⟩) ++
      Generator.answers ch p rest (match decode d with | .ok i => g.busAction p i | .error _ => g)

/-- `n` SAMPLEs with nothing ordered between them. -/
def Generator.samplesRun {P : Type} (ch : Channel P) (p : Params) (n : Nat) (g : Generator P) :
    Generator P × List S16 × List U32 :=
  g.runActions ch p (List.replicate n .sample)

end Sys2Proof.Machine
end

