-- ==== Sys2Proof/Certificates/Slice0/Obligations.lean ====
section
/-! DEFINITION. The statements for the provers. Each docstring names the rule of spec/ the statement formalises;
a statement about a state is about every state, hence about every construction parameter, every set of pending requests
and every interleaving. -/

open Sys2Proof Sys2Proof.Machine

/-! ### The bus operations -/

/-- MemWrite as WRITE performs it: a request that starts at window offset `o` writes the bytes of its payload that lie in the
window, leaves every other byte of `reg` and everything else as it is, and answers how many they are, with status OK; one
that starts outside the window writes nothing and answers 0 (R51; the choice between rejecting and truncating is the spec's
decision D12). -/
def Obligations.WriteStoresWindowPrefix : Prop :=
  ∀ (a : U32) (data : List Byte) (s : State),
    (∀ o : Nat, o < 512 → a.toNat = s.params.baseAddr.val + o →
      ∃ m : Memory,
        exec (.write a data) s = .next { s with
          gen := { s.gen with reg := m }
          results := s.results ++ [⟨s.active, { status := .ok, count := BitVec.ofNat 16 (min data.length (512 - o)) }⟩] } ∧
        (∀ (k : Nat) (h : k < data.length), k < 512 - o → m.load (o + k) = data[k]) ∧
        (∀ j : Nat, j < o ∨ o + min data.length (512 - o) ≤ j → m.load j = s.gen.reg.load j)) ∧
    (a.toNat < s.params.baseAddr.val ∨ s.params.baseAddr.val + 512 ≤ a.toNat →
      exec (.write a data) s = .next { s with results := s.results ++ [⟨s.active, { status := .ok, count := 0 }⟩] })

/-- MemRead as READ performs it: the bytes of `reg`, never of `lat`, and no state changed (R52, decision D12). -/
def Obligations.ReadReturnsWindowBytes : Prop :=
  ∀ (a : U32) (len : U16) (s : State),
    (∀ o : Nat, o < 512 → a.toNat = s.params.baseAddr.val + o →
      exec (.read a len) s = .next { s with
        results := s.results ++ [⟨s.active, {
          status := .ok
          count := BitVec.ofNat 16 (min len.toNat (512 - o))
          data := (List.range (min len.toNat (512 - o))).map fun k => s.gen.reg.load (o + k) }⟩] }) ∧
    (a.toNat < s.params.baseAddr.val ∨ s.params.baseAddr.val + 512 ≤ a.toNat →
      exec (.read a len) s = .next { s with results := s.results ++ [⟨s.active, { status := .ok, count := 0 }⟩] })

/-- SIZE, the descriptor 03, answers 512 in every state and changes nothing (R102). -/
def Obligations.SizeAnswers512 : Prop :=
  decode [0x03] = .ok .size ∧
  ∀ s : State, exec .size s = .next { s with results := s.results ++ [⟨s.active, { status := .ok, value := 512 }⟩] }

/-- ADDR, the descriptor 04, answers `BASE_ADDR` in every state and changes nothing (R103). -/
def Obligations.AddrAnswersBase : Prop :=
  decode [0x04] = .ok .addr ∧
  ∀ s : State, ∃ v : U32, v.toNat = s.params.baseAddr.val ∧
    exec .addr s = .next { s with results := s.results ++ [⟨s.active, { status := .ok, value := v }⟩] }

/-- The round trip of 20_memory.md section 2: a WRITE and then a READ of the same address and length give the same count and
exactly the bytes written; a request wholly in the window is applied whole. -/
def Obligations.WriteThenReadRoundTrip : Prop :=
  ∀ (a : U32) (data : List Byte) (s : State), data.length < 65536 →
    ∃ (t u : State) (n : Nat),
      exec (.write a data) s = .next t ∧
      exec (.read a (BitVec.ofNat 16 data.length)) t = .next u ∧
      n ≤ data.length ∧ n ≤ 512 ∧ u.gen = t.gen ∧
      t.results = s.results ++ [⟨s.active, { status := .ok, count := BitVec.ofNat 16 n }⟩] ∧
      u.results = t.results ++ [⟨s.active, { status := .ok, count := BitVec.ofNat 16 n, data := data.take n }⟩] ∧
      (s.params.baseAddr.val ≤ a.toNat → a.toNat + data.length ≤ s.params.baseAddr.val + 512 → n = data.length)

/-- A WRITE of the bytes already present changes nothing (20_memory.md section 2, side effects). -/
def Obligations.RewritingReadBytesChangesNothing : Prop :=
  ∀ (a : U32) (len : U16) (s : State), s.gen.reg.wf →
    ∃ t : State, exec (.write a (s.gen.memRead s.params a len.toNat)) s = .next t ∧ t.gen = s.gen

/-! ### Stream and lifecycle operations -/

/-- START, the descriptor 05: after EXIT it is rejected with ERR_RELEASED and nothing changes; otherwise it sets `playing` and
nothing else; when already playing it changes nothing (R152; decisions D27, D36). -/
def Obligations.StartSetsPlayingUnlessReleased : Prop :=
  decode [0x05] = .ok .start ∧
  ∀ s : State,
    (s.gen.released = true →
      exec .start s = .next { s with results := s.results ++ [⟨s.active, { status := .errReleased }⟩] }) ∧
    (s.gen.released = false →
      exec .start s = .next { s with
        gen := { s.gen with playing := true }
        results := s.results ++ [⟨s.active, { status := .ok }⟩] }) ∧
    (s.gen.released = false → s.gen.playing = true →
      exec .start s = .next { s with results := s.results ++ [⟨s.active, { status := .ok }⟩] })

/-- STOP writes `playing` and nothing else; when not playing it changes nothing (R153; decision D36). -/
def Obligations.StopClearsPlaying : Prop :=
  ∀ s : State,
    exec .stop s = .next { s with
      gen := { s.gen with playing := false }
      results := s.results ++ [⟨s.active, { status := .ok }⟩] } ∧
    (s.gen.playing = false →
      exec .stop s = .next { s with results := s.results ++ [⟨s.active, { status := .ok }⟩] })

/-- EXIT, the descriptor 07, writes `playing` and `released`; a second EXIT writes the same values and answers OK (R154; decision D27). -/
def Obligations.ExitReleasesAndIsIdempotent : Prop :=
  decode [0x07] = .ok .exit ∧
  ∀ s : State, ∃ t u : State,
    exec .exit s = .next t ∧
    t = { s with
      gen := { s.gen with playing := false, released := true }
      results := s.results ++ [⟨s.active, { status := .ok }⟩] } ∧
    exec .exit t = .next u ∧ u.gen = t.gen ∧
    u.results = t.results ++ [⟨s.active, { status := .ok }⟩]

/-- SEEK, format C with opcode 09, is rejected for every time, in every state, and nothing changes (R151; decision D25). -/
def Obligations.SeekIsRejected : Prop :=
  ∀ (time : U32) (s : State),
    decode (0x09 :: bytes32 time) = .ok (.seek time) ∧
    exec (.seek time) s = .next { s with results := s.results ++ [⟨s.active, { status := .errUnsupported }⟩] }

/-- PULL, format S with opcode 0A, is MIX with `more = 1` while `playing`, and otherwise `n` zero samples with `more = 0` and no state changed
(R150; decision D26). -/
def Obligations.PullGatesMixByPlaying : Prop :=
  ∀ (n : U16) (s : State),
    decode (0x0A :: bytes16 n) = .ok (.pull n) ∧
    (s.gen.playing = true →
      ∃ (t : State) (rs : List Response) (vs : List S16), vs.length = n.toNat ∧
        exec (.mix n) s = .next { t with
          results := rs ++ [⟨s.active, { status := .ok, count := n, samples := vs, more := false }⟩] } ∧
        exec (.pull n) s = .next { t with
          results := rs ++ [⟨s.active, { status := .ok, count := n, samples := vs, more := true }⟩] }) ∧
    (s.gen.playing = false →
      exec (.pull n) s = .next { s with
        sampleOut := s.sampleOut ++ List.replicate n.toNat 0
        results := s.results ++ [⟨s.active, {
          status := .ok, count := n, samples := List.replicate n.toNat 0, more := false }⟩] })

/-! ### The synthesis engine -/

/-- SETRATE, format C with opcode 08: floor, clamped to at least 1; `hz = 0` is rejected; only `tickPeriod` is written; the reset value is the one
SETRATE would compute (R130; decisions D8, D29). -/
def Obligations.SetrateDerivesTickPeriod : Prop :=
  (∀ hz : U32, decode (0x08 :: bytes32 hz) = .ok (.setrate hz)) ∧
  (∀ s : State,
    exec (.setrate 0) s = .next { s with results := s.results ++ [⟨s.active, { status := .errArg }⟩] }) ∧
  (∀ (hz : U32) (s : State), hz ≠ 0 →
    ∃ period : U32, period.toNat = max 1 (s.params.sampleRate.toNat / hz.toNat) ∧
      exec (.setrate hz) s = .next { s with
        gen := { s.gen with tickPeriod := period }
        results := s.results ++ [⟨s.active, { status := .ok }⟩] }) ∧
  (∀ p : Params, 1 ≤ p.tickRateReset →
    (State.construct p).gen.tickPeriod.toNat = max 1 (p.sampleRate.toNat / p.tickRateReset))

/-- CALCNEXT writes `nextTick <- u32(t + tickPeriod)` and nothing else; with a period of at least 1 the new `nextTick` is not
`t` (R131; decision D7), for every channel. -/
def Obligations.CalcNextAddsPeriod : Prop :=
  ∀ (P : Type) (g : Generator P),
    g.calcNext = { g with nextTick := BitVec.ofNat 32 (g.t.toNat + g.tickPeriod.toNat) } ∧
    (1 ≤ g.tickPeriod.toNat → g.calcNext.nextTick ≠ g.t)

/-- TICK latches all eight channels from the same register contents, then schedules the next tick, and writes nothing else;
the slot in which it happens emits one event with the `t` of the tick (43_synthesis.md section 2). -/
def Obligations.TickLatchesAllChannels : Prop :=
  (∀ (P : Type) (ch : Channel P) (g : Generator P),
    (∀ c : ChannelNo, (g.tick ch).lat[c.val] = ch.configure c (g.reg.slice c)) ∧
    g.tick ch = { g with lat := (g.tick ch).lat, nextTick := g.t + g.tickPeriod }) ∧
  (∀ s : State,
    (s.gen.t = s.gen.nextTick → (s.sampleStep referenceChannel).1.tickOut = s.tickOut ++ [s.gen.t] ∧
      ∀ (c : ChannelNo) (k : Nat) (h : k < 64), ((s.sampleStep referenceChannel).1.gen.lat[c.val])[k] = s.gen.reg.load (64 * c.val + k)) ∧
    (s.gen.t ≠ s.gen.nextTick → (s.sampleStep referenceChannel).1.tickOut = s.tickOut ∧ (s.sampleStep referenceChannel).1.gen.lat = s.gen.lat))

/-- SAMPLE: TICK first where it is due, then the exact sum of the eight amplitudes clamped once to s16, then `t + 1`
(43_synthesis.md sections 3 and 4), for every channel. -/
def Obligations.SampleSumsAndSaturates : Prop :=
  ∀ (P : Type) (ch : Channel P) (g slot : Generator P) (acc : Int),
    slot = (if g.t = g.nextTick then g.tick ch else g) →
    acc = ∑ c : ChannelNo, (ch.render c slot.samples (slot.lat[c.val]) slot.t).toInt →
    (g.sample ch).1 = { slot with t := g.t + 1 } ∧
    (g.sample ch).2.toInt = if acc < -32768 then -32768 else if 32767 < acc then 32767 else acc

/-- The sum of eight s16 lies in -262144 to 262136 (43_synthesis.md section 4), for every channel. -/
def Obligations.MixSumFitsNineteenBits : Prop :=
  ∀ (P : Type) (ch : Channel P) (g : Generator P), -262144 ≤ g.mixSum ch ∧ g.mixSum ch ≤ 262136

/-- MIX `n`, whatever is ordered between its samples: it completes with exactly `n` samples, advances `t` by exactly `n`
modulo 2^32, and leaves `samples`, `tickPeriod`, `playing`, `released` alone (43_synthesis.md section 3). Its one result is the
last; the results before it are those of the requests ordered inside, from other ports, performed or rejected at decode
(what they answer is said by MixIsInterleavingOfAtomicSteps). That a malformed request of another port is answered inside a
MIX, and that a port stands for an agent, is the model's reading, DEDUCED (log entry 9). -/
def Obligations.MixProducesNSamples : Prop :=
  ∀ (n : U16) (s : State), ∃ (t : State) (vs : List S16) (rs : List Response),
    exec (.mix n) s = .next t ∧
    vs.length = n.toNat ∧
    t.sampleOut = s.sampleOut ++ vs ∧
    t.results = s.results ++ rs ++ [⟨s.active, { status := .ok, count := n, samples := vs }⟩] ∧
    (∀ r ∈ rs, r.port ≠ s.active ∧
      (r.result.status = .ok ∨ r.result.status = .errOpcode ∨ r.result.status = .errFormat)) ∧
    t.gen.t = s.gen.t + BitVec.ofNat 32 n.toNat ∧
    t.gen.samples = s.gen.samples ∧ t.gen.tickPeriod = s.gen.tickPeriod ∧
    t.gen.playing = s.gen.playing ∧ t.gen.released = s.gen.released ∧
    t.params = s.params ∧ t.active = s.active

/-- MIX `n` with nothing ordered between its samples is `n` SAMPLEs; the register file and the requests stay as they are
(43_synthesis.md section 3). That a used-up schedule lets the samples follow with nothing between them, with the waiting
requests left where they are, is the model's choice (log entry 4). -/
def Obligations.MixWithoutInterleaving : Prop :=
  ∀ (n : U16) (s : State), s.schedule = [] →
    exec (.mix n) s = .next { s with
      gen := (s.gen.samplesRun referenceChannel s.params n.toNat).1
      sampleOut := s.sampleOut ++ (s.gen.samplesRun referenceChannel s.params n.toNat).2.1
      tickOut := s.tickOut ++ (s.gen.samplesRun referenceChannel s.params n.toNat).2.2
      results := s.results ++ [⟨s.active, {
        status := .ok, count := n, samples := (s.gen.samplesRun referenceChannel s.params n.toNat).2.1 }⟩] } ∧
    (s.gen.samplesRun referenceChannel s.params n.toNat).1.reg = s.gen.reg

/-- MIX `a` and then MIX `b` leave the same generator, the same samples and the same events as MIX `a + b`
(43_synthesis.md section 3), whatever is ordered between the samples. -/
def Obligations.MixBoundariesInvisible : Prop :=
  ∀ (a b : U16) (s : State), a.toNat + b.toNat ≤ 65535 →
    ∃ t u v : State,
      exec (.mix a) s = .next t ∧ exec (.mix b) t = .next u ∧ exec (.mix (a + b)) s = .next v ∧
      u.gen = v.gen ∧ u.sampleOut = v.sampleOut ∧ u.tickOut = v.tickOut ∧ u.schedule = v.schedule ∧
      ∀ p : Port, u.pending p = v.pending p

/-- MIX reads neither `playing` nor `released` (43_synthesis.md section 3, 44_stream_ops.md rule R155). -/
def Obligations.MixIgnoresLifecycle : Prop :=
  ∀ (n : U16) (s : State) (playing released : Bool), ∃ t : State,
    exec (.mix n) s = .next t ∧
    exec (.mix n) { s with gen := { s.gen with playing := playing, released := released } } =
      .next { t with gen := { t.gen with playing := playing, released := released } }

/-- Where ticks fall in a MIX of `n` samples that starts at `t0` with the next tick at distance `d` and period `P`:
none if `n <= d`, otherwise `1 + (n - d - 1) div P`, at the indices `t0 + d + j * P` (43_synthesis.md section 4, rule R137),
whatever is ordered between the samples. -/
def Obligations.MixTickSchedule : Prop :=
  ∀ (n : U16) (s : State) (d period : Nat), d = s.gen.tickDistance → period = s.gen.tickPeriod.toNat → 1 ≤ period →
    ∃ t : State, exec (.mix n) s = .next t ∧
      t.tickOut = s.tickOut ++
        (List.range (if n.toNat ≤ d then 0 else 1 + (n.toNat - d - 1) / period)).map
          fun j => s.gen.t + BitVec.ofNat 32 (d + j * period)

/-- The distance to the next tick: 0 exactly where a TICK is due; one less after a SAMPLE without a TICK; the new period less
one after a SAMPLE with one (10_state.md section 4, rule R31), for every channel. -/
def Obligations.TickDistanceCountsDown : Prop :=
  ∀ (P : Type) (ch : Channel P) (g : Generator P),
    (g.tickDue = true ↔ g.tickDistance = 0) ∧
    (0 < g.tickDistance → (g.sample ch).1.tickDistance = g.tickDistance - 1) ∧
    (g.tickDistance = 0 → 1 ≤ g.tickPeriod.toNat → (g.sample ch).1.tickDistance = g.tickPeriod.toNat - 1)

/-- Invariant I-TICK (10_state.md section 4, rule R31): every step keeps `u32(nextTick - t) < P_last`, where `P_last` stays
as it was where the step has no TICK and is the period in force where it has one; with the reference channel and with every
other. -/
def Obligations.StepKeepsTickWithin : Prop :=
  (∀ (s t : State) (last : Nat), s.gen.TickWithin last → 1 ≤ s.gen.tickPeriod.toNat → step s = .next t →
    t.gen.TickWithin (if t.tickOut.length = s.tickOut.length then last else s.gen.tickPeriod.toNat)) ∧
  (∀ (P : Type) (ch : Channel P) (s t : State P) (last : Nat),
    s.gen.TickWithin last → 1 ≤ s.gen.tickPeriod.toNat → stepOf ch s = .next t →
    t.gen.TickWithin (if t.tickOut.length = s.tickOut.length then last else s.gen.tickPeriod.toNat))

/-! ### The whole machine -/

/-- Every step keeps the machine invariant: canonical register file, `tickPeriod >= 1` (R28), a legal lifecycle state (R156);
with the reference channel and with every other. -/
def Obligations.StepKeepsMachineInvariant : Prop :=
  (∀ s t : State, s.Inv → step s = .next t → t.Inv) ∧
  (∀ (P : Type) (ch : Channel P) (s t : State P), s.Inv → stepOf ch s = .next t → t.Inv)

/-- The machine invariant holds after reset with any admitted parameters, and I-TICK with the last period 1 (R31, R190). -/
def Obligations.ConstructMeetsInvariant : Prop :=
  (∀ p : Params, p.Wf → (State.construct p).Inv ∧ (State.construct p).gen.TickWithin 1) ∧ State.reset.Inv

/-- The column "Written by" of the state table (10_state.md rule R20), for one operation, with its ports and outputs;
what a MIX does to `reg` and the ports is said by MixIsInterleavingOfAtomicSteps. -/
def Obligations.OnlyNamedOperationsWrite : Prop :=
  ∀ (i : Instr) (s t : State), exec i s = .next t →
    t.params = s.params ∧ t.active = s.active ∧
    t.gen.samples = s.gen.samples ∧
    ((∀ a data, i ≠ .write a data) → (∀ n, i ≠ .mix n) → (∀ n, i ≠ .pull n) → t.gen.reg = s.gen.reg) ∧
    ((∀ n, i ≠ .mix n) → (∀ n, i ≠ .pull n) →
      t.gen.lat = s.gen.lat ∧ t.gen.t = s.gen.t ∧ t.gen.nextTick = s.gen.nextTick ∧ t.tickOut = s.tickOut ∧
      t.sampleOut = s.sampleOut ∧ t.schedule = s.schedule ∧ ∀ p, t.pending p = s.pending p) ∧
    ((∀ hz, i ≠ .setrate hz) → t.gen.tickPeriod = s.gen.tickPeriod) ∧
    (i ≠ .start → i ≠ .stop → i ≠ .exit → t.gen.playing = s.gen.playing) ∧
    (i ≠ .exit → t.gen.released = s.gen.released)

/-- Once EXIT has been performed every step keeps `released`, and the stream does not come back (44_stream_ops.md rule R155). -/
def Obligations.ReleasedIsPermanent : Prop :=
  ∀ s t : State, s.Inv → s.gen.released = true → step s = .next t → t.gen.released = true ∧ t.gen.playing = false

/-- The lifecycle (44_stream_ops.md section 1, rule R156): START takes idle to streaming, STOP streaming to idle, EXIT idle or
streaming to released; no other operation changes it and nothing leaves released. -/
def Obligations.LifecycleTransitions : Prop :=
  ∀ (i : Instr) (s : State) (l : Lifecycle), s.gen.lifecycle? = some l →
    ∃ t : State, exec i s = .next t ∧
      t.gen.lifecycle? = some (
        match i, l with
        | .start, .idle => .streaming
        | .stop, .streaming => .idle
        | .exit, _ => .released
        | _, l => l)

/-- Every operation answers one result of its own, last, at the port of the request, and no other result goes out: only a MIX
or a playing PULL lets results come before its own, those of the requests ordered inside it, at other ports. A status other
than OK means that nothing but that result changed; and each operation returns only the statuses of the spec's table
(60_exceptions.md section 1, rules R170, R172, R173). That a port stands for an agent, so that no request behind a MIX on its
port is answered before it, is the model's reading, DEDUCED (log entry 9). -/
def Obligations.RejectionChangesNothing : Prop :=
  ∀ (i : Instr) (s : State), ∃ (t : State) (rs : List Response) (r : Result),
    exec i s = .next t ∧ t.results = s.results ++ rs ++ [⟨s.active, r⟩] ∧
    ((∀ n, i ≠ .mix n) → ((∀ n, i ≠ .pull n) ∨ s.gen.playing = false) → rs = []) ∧
    (∀ q ∈ rs, q.port ≠ s.active) ∧
    (r.status ≠ .ok → t = { s with results := s.results ++ [⟨s.active, { status := r.status }⟩] }) ∧
    (r.status = .ok ∨ (r.status = .errArg ∧ i = .setrate 0) ∨ (r.status = .errReleased ∧ i = .start) ∨
      (r.status = .errUnsupported ∧ ∃ time, i = .seek time)) ∧
    (∀ time, i = .seek time → r.status ≠ .ok)

/-- A step runs the decoded request: the head of the port whose turn it is is taken out, its port becomes the one being served,
and the step is `exec` of the instruction there. With the schedule used up the ports are taken in the order bus, control,
stream (log entry 4, the model's choice). -/
def Obligations.StepRunsDecodedRequest : Prop :=
  (∀ (s s' : State) (d : Descriptor) (i : Instr),
    State.nextRequest s.schedule s = some (d, s') → decode d = .ok i → step s = exec i s') ∧
  (∀ (s : State) (p : Port) (d : Descriptor) (q : List Descriptor) (rest : List Turn) (i : Instr),
    s.schedule = .port p :: rest → s.pending p = d :: q → decode d = .ok i →
    step s = exec i { ({ s with schedule := rest } : State).setPending p q with active := p }) ∧
  (∀ (s : State) (d : Descriptor) (q : List Descriptor) (i : Instr), s.schedule = [] → decode d = .ok i →
    (s.busPort = d :: q → step s = exec i { s with busPort := q, active := .bus }) ∧
    (s.busPort = [] → s.controlPort = d :: q → step s = exec i { s with controlPort := q, active := .control }) ∧
    (s.busPort = [] → s.controlPort = [] → s.streamPort = d :: q →
      step s = exec i { s with streamPort := q, active := .stream }))

/-- A step on a malformed request answers its status and changes nothing else: empty ERR_FORMAT, then reserved opcode
ERR_OPCODE whatever the length, then wrong length ERR_FORMAT; a descriptor of a defined opcode and the right length is
performed (30_encoding.md rules R76, R78, 60_exceptions.md rule R178). -/
def Obligations.StepRejectsMalformedRequest : Prop :=
  ∀ (s s' : State) (d : Descriptor), State.nextRequest s.schedule s = some (d, s') →
    (d = [] → step s = .next { s' with results := s'.results ++ [⟨s'.active, { status := .errFormat }⟩] }) ∧
    (∀ (b : Byte) (rest : List Byte), d = b :: rest → b = 0 ∨ 0x0C ≤ b.toNat →
      step s = .next { s' with results := s'.results ++ [⟨s'.active, { status := .errOpcode }⟩] }) ∧
    (∀ (b : Byte) (rest : List Byte) (op : Opcode), d = b :: rest → b = op.code →
      d.length ≠ op.format.length (lenField d) →
      step s = .next { s' with results := s'.results ++ [⟨s'.active, { status := .errFormat }⟩] }) ∧
    (∀ (b : Byte) (rest : List Byte) (op : Opcode), d = b :: rest → b = op.code →
      d.length = op.format.length (lenField d) → ∃ i : Instr, i.opcode = op ∧ step s = exec i s')

/-- With no request at any port a step changes nothing (44_stream_ops.md rule R156: nothing wakes the generator). -/
def Obligations.IdleStepChangesNothing : Prop :=
  ∀ s : State, (∀ p : Port, s.pending p = []) → step s = .next s

/-- The step function is total: it never faults and never refuses, the construction parameters and the WaveTable stay, and the
results, samples and events so far stay as they are (43_synthesis.md rule R140, 60_exceptions.md rule R170). -/
def Obligations.StepAlwaysAnswers : Prop :=
  ∀ s : State, ∃ t : State, step s = .next t ∧ s.results <+: t.results ∧ s.sampleOut <+: t.sampleOut ∧
    s.tickOut <+: t.tickOut ∧ t.params = s.params ∧ t.gen.samples = s.gen.samples

/-! ### The order of atomic steps -/

/-- A MIX, with any channel, is a sequence of atomic steps: exactly `n` SAMPLEs and, between them, whole requests of the other
ports that need not wait, taken from each port in the order they were issued. Each such request answers at its own port, from
the generator as the steps before it left it: a WRITE its count, a READ the register bytes that stand there, a malformed one
its rejection; the result of the MIX comes last (20_memory.md section 3, rules R55, R58, R59; 41_bus_ops.md;
30_encoding.md rule R71). The model's reading, DEDUCED from R57, R71, R173 and R179 (log entry 9): that a port stands for an
agent, that a malformed descriptor of a stream or control operation is never taken inside a MIX, and that a malformed one of a
bus operation, a reserved opcode and an empty descriptor, of another port, are answered there. -/
def Obligations.MixIsInterleavingOfAtomicSteps : Prop :=
  ∀ (P : Type) (ch : Channel P) (n : U16) (s : State P),
    ∃ (t : State P) (order : List AtomicStep) (vs : List S16) (es : List U32),
      execOf ch (.mix n) s = .next t ∧
      order.count .sample = n.toNat ∧
      (t.gen, vs, es) = s.gen.runActions ch s.params (order.filterMap AtomicStep.action?) ∧
      t.sampleOut = s.sampleOut ++ vs ∧ t.tickOut = s.tickOut ++ es ∧
      t.results = s.results ++ s.gen.answers ch s.params order ++
        [⟨s.active, { status := .ok, count := n, samples := vs }⟩] ∧
      (∀ p d, AtomicStep.request p d ∈ order →
        p ≠ s.active ∧ requestWaits d = false ∧ (s.gen.answer? s.params d).isSome ∧
        ∀ i, decode d = .ok i → i.isBus = true) ∧
      (∀ p : Port, s.pending p = order.filterMap (AtomicStep.requestAt? p) ++ t.pending p)

/-- Every order of `n` SAMPLEs and well-formed bus operations that does not end in a bus operation, whatever it starts from, is
an execution of a MIX `n` (20_memory.md section 3, rule R58: every interleaving is possible). A bus operation after the last
SAMPLE is a step of its own, after the MIX. -/
def Obligations.EveryInterleavingIsAMix : Prop :=
  ∀ (p : Params) (g : Generator Slice) (acts : List Action) (n : U16),
    acts.count .sample = n.toNat →
    (∀ i, Action.bus i ∈ acts → i.isBus = true ∧ i.wellFormed = true) →
    (∀ i, acts.getLast? ≠ some (.bus i)) →
    ∃ s t : State, s.params = p ∧ s.gen = g ∧ s.sampleOut = [] ∧ s.tickOut = [] ∧
      exec (.mix n) s = .next t ∧
      (t.gen, t.sampleOut, t.tickOut) = g.runActions referenceChannel p acts

/-- A request of the stream or the control agent waits for the end of a MIX, and so does every request behind the MIX on its
own port, with the requests of that port behind it (20_memory.md section 3, rules R58, R59; 70_reset_and_hazards.md rule
R201). That a malformed descriptor of such an operation waits too, and that a port stands for an agent, is the model's
reading, DEDUCED from R57, R71 and R173 (log entry 9); that the port's turns stay in the schedule is the model's choice (log entry 4). -/
def Obligations.OtherRequestsWaitForMix : Prop :=
  ∀ (n : U16) (s : State) (p : Port) (d : Descriptor) (q : List Descriptor),
    s.pending p = d :: q →
    p = s.active ∨ (∃ (op : Opcode) (rest : List Byte), d = op.code :: rest ∧ op.port ≠ .bus) →
    ∃ t : State, exec (.mix n) s = .next t ∧ t.pending p = d :: q ∧
      t.schedule.count (.port p) = s.schedule.count (.port p)

/-- Until the next TICK the sound does not depend on the bus operations at all: any two orders with as many samples, at most
the distance to the tick, give the same samples and no event (20_memory.md section 3, rule R60; 70_reset_and_hazards.md rule R193),
for every channel. -/
def Obligations.BusOperationsInvisibleUntilTick : Prop :=
  ∀ (P : Type) (ch : Channel P) (p : Params) (g : Generator P) (acts acts' : List Action),
    acts.count .sample = acts'.count .sample → acts.count .sample ≤ g.tickDistance →
    (g.runActions ch p acts).2 = (g.runActions ch p acts').2 ∧ (g.runActions ch p acts).2.2 = []

/-- At a tick boundary the register window is the whole audio state: two generators that agree on everything but `lat`,
with a TICK due, give the same samples and events under every order of atomic steps (10_state.md section 4, rule R32),
for every channel. -/
def Obligations.SnapshotAtTickReproducesSound : Prop :=
  ∀ (P : Type) (ch : Channel P) (p : Params) (g : Generator P) (lat : Vector P nChannels) (acts : List Action),
    g.t = g.nextTick →
    (({ g with lat := lat } : Generator P).runActions ch p acts).2 = (g.runActions ch p acts).2

/-- In every order of SAMPLEs and bus operations in which each WRITE that reaches one byte of the FREQ of channel `c` carries
both, the latch never holds a torn frequency: it is the one latched before, the one in the registers before, or one that a
single WRITE of the order carries (20_memory.md rule R55, 95_test_vectors.md V-S5). -/
def Obligations.OneTransactionNeverTears : Prop :=
  ∀ (p : Params) (g : Generator Slice) (c : ChannelNo) (acts : List Action),
    (∀ (a : U32) (data : List Byte), Action.bus (.write a data) ∈ acts → ∀ k : Nat, k < data.length →
      (a.toNat + k = p.baseAddr.val + 64 * c.val → k + 1 < data.length) ∧
      (a.toNat + k = p.baseAddr.val + 64 * c.val + 1 → 0 < k)) →
    let freq := (g.runActions referenceChannel p acts).1.freqLatched c
    freq = g.freqLatched c ∨ freq = g.freqWritten c ∨
      ∃ (a : U32) (data : List Byte) (k : Nat) (h : k + 1 < data.length), Action.bus (.write a data) ∈ acts ∧
        a.toNat + k = p.baseAddr.val + 64 * c.val ∧ freq = le16 data[k] data[k + 1]

/-- Two WRITEs of one byte each with a tick between them, on any channel: the tick latches the new low byte with the old high
byte (70_reset_and_hazards.md rule R196, H-SPLIT; 90_conflicts.md C1). -/
def Obligations.SplitWriteTears : Prop :=
  ∀ (p : Params) (g : Generator Slice) (c : ChannelNo) (lo hi : Byte), g.t = g.nextTick →
    let acts := [Action.bus (.write (chAddr p c) [lo]), .sample, .bus (.write (chAddr p c + 1) [hi])]
    (g.runActions referenceChannel p acts).1.freqLatched c = le16 lo (g.reg.load (64 * c.val + 1)) ∧
    (g.runActions referenceChannel p acts).1.freqWritten c = le16 lo hi

/-! ### The reference channel and the WaveTable -/

/-- CH_RENDER with this spec's WaveTable in closed form: `(2L - 15) * 136 * V` for the level `L` at the current entry, exact,
0 when disabled (42_channel.md rules R114 to R122; the layout is the spec's decisions D14 to D18). -/
def Obligations.RenderClosedForm : Prop :=
  ∀ (c : ChannelNo) (p : Slice) (t : U32) (f i l v : Nat) (b : Byte),
    f = p[0].toNat + 256 * p[1].toNat →
    i = f * t.toNat % 65536 / 1024 →
    b = (p[32 + i / 2]?).getD 0 →
    l = (if p[3] = 1 then (if i % 2 = 0 then b.toNat / 16 else b.toNat % 16) else i / 4) →
    v = p[2].toNat % 16 →
    (chRender c wtConstruct p t).toInt = (if p[4].toNat % 2 = 1 then (2 * (l : Int) - 15) * 136 * v else 0) ∧
    -30600 ≤ (chRender c wtConstruct p t).toInt ∧ (chRender c wtConstruct p t).toInt ≤ 30600

/-- Ignored bits, reserved bytes and the value of an undefined selector have no effect on the sound
(42_channel.md rules R116 to R119, 60_exceptions.md rule R174), with any WaveTable. -/
def Obligations.RenderIgnoresUnusedBits : Prop :=
  ∀ (c : ChannelNo) (wt : WaveTable) (p p' : Slice) (t : U32),
    p'[0] = p[0] → p'[1] = p[1] → p'[2].toNat % 16 = p[2].toNat % 16 →
    (p'[3] = p[3] ∨ (p'[3] ≠ 1 ∧ p[3] ≠ 1)) → p'[4].getLsbD 0 = p[4].getLsbD 0 →
    (∀ (k : Nat) (h : k < 64), 32 ≤ k → p'[k] = p[k]) →
    chRender c wt p' t = chRender c wt p t

/-- One reference voice latched at F = 0x0400, V = 15 on the shared WaveTable: until the next tick sample `k` of a MIX is
`(2 * ((t mod 64) div 4) - 15) * 2040` at its own `t` (42_channel.md rules R113, R123; 95_test_vectors.md V-P1 after its first
tick, which latches the registers). That a used-up schedule means that nothing is ordered between the samples is the model's
choice (log entry 4). -/
def Obligations.SingleVoiceGoldenBuffer : Prop :=
  ∀ (n : U16) (s : State) (golden : List S16),
    s.schedule = [] → s.gen.samples = wtConstruct → n.toNat ≤ s.gen.tickDistance →
    s.gen.lat[0][0] = 0x00 → s.gen.lat[0][1] = 0x04 → s.gen.lat[0][2] = 0x0F → s.gen.lat[0][3] = 0x00 →
    s.gen.lat[0][4] = 0x01 →
    (∀ c : ChannelNo, c ≠ 0 → (s.gen.lat[c.val])[4].getLsbD 0 = false) →
    golden = (List.range n.toNat).map (fun k =>
      BitVec.ofInt 16 ((2 * ((((s.gen.t.toNat + k) % 64) / 4 : Nat) : Int) - 15) * 2040)) →
    exec (.mix n) s = .next { s with
      gen := { s.gen with t := s.gen.t + BitVec.ofNat 32 n.toNat }
      sampleOut := s.sampleOut ++ golden
      results := s.results ++ [⟨s.active, { status := .ok, count := n, samples := golden }⟩] }

/-- WT.AT is total and wraps, for every table; the corner cases with this spec's table (R92). -/
def Obligations.WaveTableLookupWraps : Prop :=
  (∀ (wt : WaveTable) (index : U16) (h : index.toNat % 64 < 64),
    wtAt wt index = wt[index.toNat % 64] ∧ wtAt wt index = wtAt wt (BitVec.ofNat 16 (index.toNat % 64))) ∧
  (wtAt wtConstruct 63).toInt = 32640 ∧ (wtAt wtConstruct 64).toInt = -32640 ∧
  (wtAt wtConstruct 65535).toInt = 32640 ∧ (wtAt wtConstruct 130).toInt = -32640

/-- The table WT.CONSTRUCT builds: the 16 levels, antisymmetric, of sum 0 (40_wavetable.md rules R90, R91, decision D13). -/
def Obligations.WaveTableLevels : Prop :=
  (∀ (i : Nat) (h : i < 64), (wtConstruct[i]).toInt = (2 * ((i / 4 : Nat) : Int) - 15) * 2176) ∧
  (∀ (i : Nat) (h : i < 64), (wtConstruct[63 - i]).toInt = -(wtConstruct[i]).toInt) ∧
  (wtConstruct.toList.map BitVec.toInt).sum = 0

/-! ### Encoding -/

/-- Decoding an encoded well-formed instruction gives it back, with every operand at every value (30_encoding.md rules R72 to R75). -/
def Obligations.DecodeEncode : Prop :=
  ∀ i : Instr, i.wellFormed = true → decode (encode i) = .ok i

/-- A descriptor that decodes is the encoding of what it decodes to: no two descriptors mean the same operation
(30_encoding.md rules R72 to R76). -/
def Obligations.DecodedDescriptorIsTheEncoding : Prop :=
  ∀ (d : Descriptor) (i : Instr), decode d = .ok i → encode i = d ∧ i.wellFormed = true

/-- The reserved opcodes are exactly 0x00 and 0x0C to 0xFF (30_encoding.md rules R74, R78). -/
def Obligations.ReservedOpcodesAreRejected : Prop :=
  ∀ (b : Byte) (rest : List Byte),
    (decode (b :: rest) = .error (.reservedOpcode b) ↔ b = 0 ∨ 0x0C ≤ b.toNat)

/-- Descriptors written out from the tables of 30_encoding.md rules R72 and R83 decode to their operations. -/
def Obligations.WrittenDescriptorsDecode : Prop :=
  decode [0x01, 0x00, 0x80, 0x00, 0x00, 0x05, 0x00, 0x00, 0x04, 0x0F, 0x00, 0x01] =
    .ok (.write 0x8000 [0x00, 0x04, 0x0F, 0x00, 0x01]) ∧
  decode [0x02, 0x00, 0x80, 0x00, 0x00, 0x05, 0x00] = .ok (.read 0x8000 5) ∧
  decode [0x03] = .ok .size ∧ decode [0x04] = .ok .addr ∧ decode [0x05] = .ok .start ∧
  decode [0x06] = .ok .stop ∧ decode [0x07] = .ok .exit ∧
  decode [0x08, 0x11, 0x2B, 0x00, 0x00] = .ok (.setrate 11025) ∧
  decode [0x09, 0xE8, 0x03, 0x00, 0x00] = .ok (.seek 1000) ∧
  decode [0x0A, 0x08, 0x00] = .ok (.pull 8) ∧
  decode [0x0B, 0xDF, 0x02] = .ok (.mix 735)

/-- A stream of descriptors is cut at their lengths, and a reserved opcode takes one byte wherever it stands, so that the next
descriptor starts at the next byte (30_encoding.md rules R75, R78). -/
def Obligations.StreamSplitsAtLengths : Prop :=
  ∀ ds : List Descriptor,
    (∀ d ∈ ds, (∃ i : Instr, i.wellFormed = true ∧ d = encode i) ∨ (∃ b : Byte, d = [b] ∧ (b = 0 ∨ 0x0C ≤ b.toNat))) →
    splitStream ds.flatten = ds

/-- The row's word at the head of the ports is the next instruction a step runs (the model's interface to a table row, log entry 5). -/
def Obligations.FetchedWordRuns : Prop :=
  ∀ (s : State) (nbits w : Nat) (i : Instr), decodeTableWord nbits w = some i →
    step (s.withFetchWord nbits w) = exec i { s with active := .bus }

/-! ### Reset and pseudo-operations -/

/-- The state after reset with the parameters `p` (10_state.md rule R35, 70_reset_and_hazards.md rule R190). -/
def Obligations.ConstructedStateHasResetValues : Prop :=
  ∀ p : Params, p.Wf →
    (State.construct p).gen.samples = wtConstruct ∧
    (State.construct p).gen.reg = p.regReset ∧
    (∀ (c : ChannelNo) (k : Nat) (h : k < 64), ((State.construct p).gen.lat[c.val])[k] = p.regReset.load (64 * c.val + k)) ∧
    (State.construct p).gen.t = 0 ∧ (State.construct p).gen.nextTick = 0 ∧
    (State.construct p).gen.tickPeriod.toNat = max 1 (p.sampleRate.toNat / p.tickRateReset) ∧
    (State.construct p).gen.playing = false ∧ (State.construct p).gen.released = false ∧
    (State.construct p).results = [] ∧ (State.construct p).sampleOut = [] ∧ (State.construct p).tickOut = [] ∧
    State.reset.gen.tickPeriod = 735

/-- Right after reset with a zero register file: MIX gives zeros and its first event is `tick_evt(0)`; PULL gives zeros and
stream end; READ gives as many zeros as the request has bytes in the window (70_reset_and_hazards.md rule R191). Results go to the bus port,
with no request waiting and nothing ordered, by the model's choice (log entries 2, 3, 4). -/
def Obligations.FreshMachineIsSilent : Prop :=
  ∀ (p : Params) (n len : U16) (a : U32) (zeros : List S16), p.regReset = [] → zeros = List.replicate n.toNat 0 →
    (∃ t : State, exec (.mix n) (State.construct p) = .next t ∧ t.sampleOut = zeros ∧
      (0 < n.toNat → t.tickOut.head? = some 0)) ∧
    exec (.pull n) (State.construct p) = .next { State.construct p with
      sampleOut := zeros, results := [⟨.bus, { status := .ok, count := n, samples := zeros, more := false }⟩] } ∧
    (∀ o : Nat, o < 512 → a.toNat = p.baseAddr.val + o →
      exec (.read a len) (State.construct p) = .next { State.construct p with
        results := [⟨.bus, {
          status := .ok
          count := BitVec.ofNat 16 (min len.toNat (512 - o))
          data := List.replicate (min len.toNat (512 - o)) 0 }⟩] }) ∧
    (a.toNat < p.baseAddr.val ∨ p.baseAddr.val + 512 ≤ a.toNat →
      exec (.read a len) (State.construct p) = .next { State.construct p with
        results := [⟨.bus, { status := .ok, count := 0 }⟩] })

/-- CHSET sets FREQ, VOL, WAVE and CTRL of its channel in one operation and leaves the rest of the register file alone
(30_encoding.md rule R82, 42_channel.md rule R114). -/
def Obligations.ChsetSetsOneChannel : Prop :=
  ∀ (c : ChannelNo) (f : U16) (v w en : Byte) (s : State),
    ∃ t : State, exec (chset s.params c f v w en) s = .next t ∧
      chFreq (t.gen.reg.slice c) = f ∧ chVolume (t.gen.reg.slice c) = v.toNat % 16 ∧
      chSelector (t.gen.reg.slice c) = w ∧ chEnabled (t.gen.reg.slice c) = en.getLsbD 0 ∧
      (∀ j : Nat, j < 64 * c.val ∨ 64 * c.val + 5 ≤ j → t.gen.reg.load j = s.gen.reg.load j)

/-- CHOFF clears the enable flag of its channel and leaves every other byte of the register file alone (30_encoding.md rule
R82, 42_channel.md rule R118). -/
def Obligations.ChoffDisablesOneChannel : Prop :=
  ∀ (c : ChannelNo) (s : State),
    ∃ t : State, exec (choff s.params c) s = .next t ∧
      chEnabled (t.gen.reg.slice c) = false ∧ t.gen.reg.load (64 * c.val + 4) = 0 ∧
      (∀ j : Nat, j ≠ 64 * c.val + 4 → t.gen.reg.load j = s.gen.reg.load j)

/-- WAVERAM places the 64 nibbles of a channel's own wave memory, entry `i` in byte `i div 2`, the high nibble first, and
leaves every other byte of the register file alone (30_encoding.md rule R82, 42_channel.md rule R119). -/
def Obligations.WaveramPlacesOwnWaveMemory : Prop :=
  ∀ (c : ChannelNo) (bytes : Vector Byte 32) (s : State),
    ∃ t : State, exec (waveram s.params c bytes) s = .next t ∧
      (∀ (i : Fin wtLen) (b : Byte), bytes[i.val / 2]? = some b →
        chOwn (t.gen.reg.slice c) i = if i.val % 2 = 0 then b.toNat / 16 else b.toNat % 16) ∧
      (∀ j : Nat, j < 64 * c.val + 32 ∨ 64 * c.val + 64 ≤ j → t.gen.reg.load j = s.gen.reg.load j)

/-- WRITE16 puts the low byte of its value at the address and the high byte behind it, in one operation, and SAVE answers the
whole register file and changes nothing (30_encoding.md rule R82, 20_memory.md rule R53). -/
def Obligations.Write16AndSaveCoverTheirBytes : Prop :=
  (∀ (a : U32) (v : U16) (s : State) (o : Nat), o + 1 < 512 → a.toNat = s.params.baseAddr.val + o →
    ∃ t : State, exec (write16 a v) s = .next t ∧
      (t.gen.reg.load o).toNat = v.toNat % 256 ∧ (t.gen.reg.load (o + 1)).toNat = v.toNat / 256 ∧
      (∀ j : Nat, j ≠ o → j ≠ o + 1 → t.gen.reg.load j = s.gen.reg.load j)) ∧
  (∀ s : State,
    exec (save s.params) s = .next { s with
      results := s.results ++ [⟨s.active, {
        status := .ok, count := 512, data := (List.range 512).map fun k => s.gen.reg.load k }⟩] })

/-! ### The channel as a parameter -/

/-- The machine is one of the machines over all channels: its operations, its step and its reset are those of the parametric
machine at the reference channel, the default of the parameter CHANNEL (10_state.md section 4, rule R33; 42_channel.md rules
R110, R120). -/
def Obligations.MachineIsReferenceInstance : Prop :=
  (∀ (i : Instr) (s : State), exec i s = execOf referenceChannel i s) ∧
  (∀ s : State, step s = stepOf referenceChannel s) ∧
  (∀ p : Params, State.construct p = State.constructOf referenceChannel p)

/-- With every channel, TICK in a sample slot and construction latch what CH_CONFIGURE gives for the registers, and a step
runs the decoded request at the head of the port whose turn it is (10_state.md sections 3 and 4, rules R25, R32, R33;
42_channel.md rule R110). -/
def Obligations.EveryChannelMachineLatches : Prop :=
  ∀ (P : Type) (ch : Channel P),
    (∀ s : State P, s.gen.t = s.gen.nextTick → (s.sampleStep ch).1.gen.Latched ch) ∧
    (∀ p : Params, (State.constructOf ch p).gen.Latched ch) ∧
    (∀ (s : State P) (p : Port) (d : Descriptor) (q : List Descriptor) (rest : List Turn) (i : Instr),
      s.schedule = .port p :: rest → s.pending p = d :: q → decode d = .ok i →
      stepOf ch s = execOf ch i { ({ s with schedule := rest } : State P).setPending p q with active := p })
end

