-- ==== Sys2Proof/Laws/Bits.lean ====
section
/-! SUPPORT. The byte order: taking a value apart into bytes and putting it together again. -/

namespace Sys2Proof

/-- The value of a little-endian pair (R73, R115). -/
theorem le16_toNat (lo hi : Byte) : (le16 lo hi).toNat = lo.toNat + 256 * hi.toNat := by
  have hl := lo.isLt
  rw [le16, BitVec.toNat_append, Nat.shiftLeft_eq, Nat.mul_comm, ← Nat.two_pow_add_eq_or_of_lt hl]
  omega

/-- The value of four little-endian bytes (R73). -/
theorem le32_toNat (b0 b1 b2 b3 : Byte) :
    (le32 b0 b1 b2 b3).toNat = b0.toNat + 256 * b1.toNat + 65536 * b2.toNat + 16777216 * b3.toNat := by
  have h : le32 b0 b1 b2 b3 = le16 b2 b3 ++ le16 b0 b1 := rfl
  have hl := (le16 b0 b1).isLt
  rw [h, BitVec.toNat_append, Nat.shiftLeft_eq, Nat.mul_comm, ← Nat.two_pow_add_eq_or_of_lt hl, le16_toNat, le16_toNat]
  omega

/-- The bytes of a u16 give it back. -/
theorem le16_bytes16 (v : U16) : le16 (v.extractLsb' 0 8) (v.extractLsb' 8 8) = v := by
  apply BitVec.eq_of_toNat_eq
  have h := v.isLt
  rw [le16_toNat]
  simp only [BitVec.extractLsb'_toNat, Nat.shiftRight_eq_div_pow]
  omega

/-- The bytes of a u32 give it back. -/
theorem le32_bytes32 (v : U32) :
    le32 (v.extractLsb' 0 8) (v.extractLsb' 8 8) (v.extractLsb' 16 8) (v.extractLsb' 24 8) = v := by
  apply BitVec.eq_of_toNat_eq
  have h := v.isLt
  rw [le32_toNat]
  simp only [BitVec.extractLsb'_toNat, Nat.shiftRight_eq_div_pow]
  omega

@[simp] theorem bytes16_length (v : U16) : (bytes16 v).length = 2 := rfl
@[simp] theorem bytes32_length (v : U32) : (bytes32 v).length = 4 := rfl

/-- The bytes of a u16 put together from two bytes are those bytes. -/
theorem bytes16_le16 (lo hi : Byte) : bytes16 (le16 lo hi) = [lo, hi] := by
  have h0 := lo.isLt
  have h1 := hi.isLt
  simp only [bytes16, List.cons.injEq, and_true]
  constructor <;>
    (apply BitVec.eq_of_toNat_eq
     rw [BitVec.extractLsb'_toNat, Nat.shiftRight_eq_div_pow, le16_toNat]
     omega)

/-- The bytes of a u32 put together from four bytes are those bytes. -/
theorem bytes32_le32 (b0 b1 b2 b3 : Byte) : bytes32 (le32 b0 b1 b2 b3) = [b0, b1, b2, b3] := by
  have h0 := b0.isLt
  have h1 := b1.isLt
  have h2 := b2.isLt
  have h3 := b3.isLt
  simp only [bytes32, List.cons.injEq, and_true]
  refine ⟨?_, ?_, ?_, ?_⟩ <;>
    (apply BitVec.eq_of_toNat_eq
     rw [BitVec.extractLsb'_toNat, Nat.shiftRight_eq_div_pow, le32_toNat]
     omega)

end Sys2Proof
end

