-- ==== Sys2Proof/Laws/Memory.lean ====
section
/-! SUPPORT. The register file: read after write, and that every operation keeps the canonical form. -/

namespace Sys2Proof

@[simp] theorem Memory.load_nil (o : Nat) : Memory.load [] o = Memory.blank := rfl

/-- Reading `o` looks only at the entries of `o`. -/
theorem Memory.load_filter_of_pos {m : Memory} {q : Host.Cell → Bool} {o : Nat} (h : ∀ b, q (o, b) = true) :
    Memory.load (m.filter q) o = m.load o := by
  induction m with
  | nil => rfl
  | cons c m ih =>
    unfold Memory.load at ih ⊢
    obtain ⟨k, b⟩ := c
    by_cases hk : k = o
    · subst hk
      simp [h]
    · by_cases hq : q (k, b) = true <;> simp [hq, hk] <;> simpa using ih

/-- A list without an entry of `o` reads as blank there. -/
theorem Memory.load_eq_blank {m : Memory} {o : Nat} (h : ∀ c ∈ m, c.1 ≠ o) : m.load o = Memory.blank := by
  have : m.find? (fun c => c.1 == o) = none := by simpa [List.find?_eq_none] using h
  simp [Memory.load, this]

/-- Reading a concatenation whose first part has no entry of `o`. -/
theorem Memory.load_append_right {m m' : Memory} {o : Nat} (h : ∀ c ∈ m, c.1 ≠ o) :
    Memory.load (m ++ m') o = m'.load o := by
  have : m.find? (fun c => c.1 == o) = none := by simpa [List.find?_eq_none] using h
  simp [Memory.load, List.find?_append, this]

/-- Reading a concatenation whose second part has no entry of `o`. -/
theorem Memory.load_append_left {m m' : Memory} {o : Nat} (h : ∀ c ∈ m', c.1 ≠ o) :
    Memory.load (m ++ m') o = m.load o := by
  have : m'.find? (fun c => c.1 == o) = none := by simpa [List.find?_eq_none] using h
  simp [Memory.load, List.find?_append, this]

/-- A read after a write to the same offset gives the byte written (R24). -/
@[simp] theorem Memory.load_store_same (m : Memory) (o : Nat) (b : Byte) : (m.store o b).load o = b := by
  unfold Memory.store
  rw [Memory.load_append_left (by simp; omega), Memory.load_append_right (by simp; omega)]
  by_cases hb : b = Memory.blank
  · simp [hb]
  · simp [hb, Memory.load]

/-- A write leaves every other offset alone (R56). -/
theorem Memory.load_store_other (m : Memory) {o o' : Nat} (b : Byte) (h : o' ≠ o) :
    (m.store o b).load o' = m.load o' := by
  have hmid : ∀ c ∈ (if b = Memory.blank then [] else [(o, b)] : Memory), c.1 ≠ o' := by
    split
    · simp
    · simpa using fun e => h e.symm
  unfold Memory.store
  rcases Nat.lt_or_gt_of_ne h with hlt | hgt
  · rw [Memory.load_append_left (by simp; omega), Memory.load_append_left hmid]
    exact Memory.load_filter_of_pos (by simp [hlt])
  · rw [List.append_assoc, Memory.load_append_right (by simp; omega), Memory.load_append_right hmid]
    exact Memory.load_filter_of_pos (by simp; omega)

theorem Memory.wf_nil : Memory.wf [] := by decide

/-- A write to an offset of the register file keeps the canonical form. -/
theorem Memory.store_wf {m : Memory} (hm : m.wf) {o : Nat} (ho : o < sndMemoryLength) (b : Byte) : (m.store o b).wf := by
  obtain ⟨hs, hc⟩ := hm
  have hmid : ∀ c ∈ (if b = Memory.blank then [] else [(o, b)] : Memory), c.1 = o ∧ c.2 ≠ Memory.blank := by
    split <;> simp_all
  refine ⟨?_, ?_⟩
  · unfold Memory.store
    refine List.pairwise_append.2 ⟨List.pairwise_append.2 ⟨hs.filter _, ?_, ?_⟩, hs.filter _, ?_⟩
    · split <;> simp
    · intro a ha c hc'
      have := (hmid c hc').1
      simp only [List.mem_filter, decide_eq_true_eq] at ha
      omega
    · intro a ha c hc'
      simp only [List.mem_append, List.mem_filter, decide_eq_true_eq] at ha hc'
      rcases ha with ha | ha
      · omega
      · have := (hmid a ha).1
        omega
  · intro c hmem
    simp only [Memory.store, List.mem_append, List.mem_filter] at hmem
    rcases hmem with (hmem | hmem) | hmem
    · exact hc c hmem.1
    · obtain ⟨h1, h2⟩ := hmid c hmem
      exact ⟨by omega, h2⟩
    · exact hc c hmem.1

/-- A transfer that stays in the register file keeps the canonical form (R51). -/
theorem Memory.storeBytes_wf {m : Memory} (hm : m.wf) (bs : List Byte) {o : Nat} (h : o + bs.length ≤ sndMemoryLength) :
    (m.storeBytes o bs).wf := by
  induction bs generalizing m o with
  | nil => exact hm
  | cons b bs ih =>
    simp only [List.length_cons] at h
    exact ih (Memory.store_wf hm (by omega) b) (by omega)

/-- A transfer leaves the bytes outside it alone (R51). -/
theorem Memory.load_storeBytes_outside (bs : List Byte) {m : Memory} {o j : Nat} (h : j < o ∨ o + bs.length ≤ j) :
    (m.storeBytes o bs).load j = m.load j := by
  induction bs generalizing m o with
  | nil => rfl
  | cons b bs ih =>
    simp only [List.length_cons] at h
    simp only [Memory.storeBytes]
    rw [ih (by omega), Memory.load_store_other _ _ (by omega)]

/-- A transfer puts byte `k` at offset `o + k` (R51). -/
theorem Memory.load_storeBytes_inside (bs : List Byte) {m : Memory} {o k : Nat} (h : k < bs.length) :
    (m.storeBytes o bs).load (o + k) = bs[k] := by
  induction bs generalizing m o k with
  | nil => simp at h
  | cons b bs ih =>
    simp only [Memory.storeBytes]
    cases k with
    | zero => rw [Memory.load_storeBytes_outside _ (by omega)]; simp
    | succ k =>
      have := ih (m := m.store o b) (o := o + 1) (k := k) (by simpa using h)
      simpa [Nat.add_assoc, Nat.add_comm 1 k] using this

@[simp] theorem Memory.loadBytes_length (m : Memory) (o n : Nat) : (m.loadBytes o n).length = n := by
  simp [Memory.loadBytes]

@[simp] theorem Memory.loadBytes_getElem (m : Memory) (o n k : Nat) (h : k < (m.loadBytes o n).length) :
    (m.loadBytes o n)[k] = m.load (o + k) := by
  simp [Memory.loadBytes]

/-- Two canonical memories that read alike are the same list. -/
theorem Memory.ext_of_wf {m m' : Memory} (hm : m.wf) (hm' : m'.wf) (h : ∀ o, m.load o = m'.load o) : m = m' := by
  have load_pos : ∀ {m : Memory} {k : Nat} {b : Byte}, m.wf → (k, b) ∈ m → m.load k = b := by
    intro m k b hm hmem
    obtain ⟨l1, l2, rfl⟩ := List.append_of_mem hmem
    have hne : ∀ c ∈ l1, c.1 ≠ k := fun c hc => by
      have := (List.pairwise_append.1 hm.1).2.2 c hc (k, b) (by simp)
      omega
    rw [Memory.load_append_right hne]
    simp [Memory.load]
  have sub : ∀ {m m' : Memory}, m.wf → m'.wf → (∀ o, m.load o = m'.load o) → ∀ c ∈ m, c ∈ m' := by
    intro m m' hm hm' h c hc
    obtain ⟨k, b⟩ := c
    have hb := load_pos hm hc
    have hne := (hm.2 _ hc).2
    rw [h k] at hb
    unfold Memory.load at hb
    cases hf : m'.find? (fun c => c.1 == k) with
    | none => simp [hf] at hb; exact absurd hb.symm hne
    | some d =>
      obtain ⟨k', b'⟩ := d
      have hk : k' = k := by simpa using List.find?_some hf
      have hmem := List.mem_of_find?_eq_some hf
      simp [hf] at hb
      simpa [hk, hb] using hmem
  have nodup : ∀ {m : Memory}, m.wf → m.Nodup := fun hm =>
    hm.1.imp (fun {a b} (hab : a.1 < b.1) (e : a = b) => by simp [e] at hab)
  have hperm : m.Perm m' :=
    (List.perm_ext_iff_of_nodup (nodup hm) (nodup hm')).2
      fun c => ⟨sub hm hm' h c, sub hm' hm (fun o => (h o).symm) c⟩
  exact hperm.eq_of_pairwise (fun a b _ _ h1 h2 => by omega) hm.1 hm'.1

end Sys2Proof
end

