-- ==== Sys2Proof/Laws/Engine.lean ====
section
/-! SUPPORT. What the micro-operations and the bus accesses can do to the generator, said once. -/

namespace Sys2Proof.Machine

variable {P : Type} (ch : Channel P) (g : Generator P)

@[simp] theorem Generator.calcNext_nextTick : g.calcNext.nextTick = g.t + g.tickPeriod := rfl
@[simp] theorem Generator.tick_nextTick : (g.tick ch).nextTick = g.t + g.tickPeriod := rfl
@[simp] theorem Generator.tick_reg : (g.tick ch).reg = g.reg := rfl

/-- TICK latches every channel from the register file as it stands (R32, R133). -/
theorem Generator.tick_latched : (g.tick ch).Latched ch := by
  intro c
  simp [Generator.tick, Generator.latch, Generator.calcNext]

@[simp] theorem Generator.openSlot_samples : (g.openSlot ch).samples = g.samples := by
  unfold Generator.openSlot; split <;> rfl
@[simp] theorem Generator.openSlot_reg : (g.openSlot ch).reg = g.reg := by
  unfold Generator.openSlot; split <;> rfl
@[simp] theorem Generator.openSlot_t : (g.openSlot ch).t = g.t := by
  unfold Generator.openSlot; split <;> rfl
@[simp] theorem Generator.openSlot_tickPeriod : (g.openSlot ch).tickPeriod = g.tickPeriod := by
  unfold Generator.openSlot; split <;> rfl
@[simp] theorem Generator.openSlot_playing : (g.openSlot ch).playing = g.playing := by
  unfold Generator.openSlot; split <;> rfl
@[simp] theorem Generator.openSlot_released : (g.openSlot ch).released = g.released := by
  unfold Generator.openSlot; split <;> rfl

/-- In a slot where no TICK is due nothing happens before the render. -/
theorem Generator.openSlot_of_not_due (h : g.tickDue = false) : g.openSlot ch = g := by
  simp [Generator.openSlot, h]

/-- In a slot where a TICK is due it comes before the render (R134 a). -/
theorem Generator.openSlot_of_due (h : g.tickDue = true) : g.openSlot ch = g.tick ch := by
  simp [Generator.openSlot, h]

/-- SAMPLE opens the slot and advances `t` by one (R134). -/
theorem Generator.sample_eq :
    g.sample ch = ({ g.openSlot ch with t := g.t + 1#32 }, sat16 ((g.openSlot ch).mixSum ch)) := by
  simp [Generator.sample]

@[simp] theorem Generator.sample_samples : (g.sample ch).1.samples = g.samples := by simp [Generator.sample_eq]
@[simp] theorem Generator.sample_reg : (g.sample ch).1.reg = g.reg := by simp [Generator.sample_eq]
@[simp] theorem Generator.sample_t : (g.sample ch).1.t = g.t + 1#32 := by simp [Generator.sample_eq]
@[simp] theorem Generator.sample_tickPeriod : (g.sample ch).1.tickPeriod = g.tickPeriod := by simp [Generator.sample_eq]
@[simp] theorem Generator.sample_playing : (g.sample ch).1.playing = g.playing := by simp [Generator.sample_eq]
@[simp] theorem Generator.sample_released : (g.sample ch).1.released = g.released := by simp [Generator.sample_eq]

/-- A TICK is due exactly where the distance to it is 0 (R31, R134 b). -/
theorem Generator.tickDue_iff : g.tickDue = true ↔ g.tickDistance = 0 := by
  simp only [Generator.tickDue, Generator.tickDistance, beq_iff_eq]
  constructor
  · intro h; simp [h]
  · intro h
    have : g.nextTick - g.t = 0#32 := BitVec.eq_of_toNat_eq (by simpa using h)
    have := congrArg (· + g.t) this
    simpa using this.symm

/-- The window, offset by offset (R50). -/
theorem windowOffset_eq_some {p : Params} {a : U32} {o : Nat} :
    windowOffset p a = some o ↔ a.toNat = p.baseAddr.val + o ∧ o < sndMemoryLength := by
  unfold windowOffset
  split <;> simp only [Option.some.injEq, sndMemoryLength, reduceCtorEq, false_iff] at * <;> omega

theorem windowOffset_eq_none {p : Params} {a : U32} :
    windowOffset p a = none ↔ a.toNat < p.baseAddr.val ∨ p.baseAddr.val + sndMemoryLength ≤ a.toNat := by
  unfold windowOffset
  split <;> simp only [sndMemoryLength, reduceCtorEq, false_iff, true_iff] at * <;> omega

/-- The bytes a WRITE applies: a prefix that ends inside the register file (R51). -/
theorem clip_length {o : Nat} (h : o < sndMemoryLength) (v : List Byte) :
    (v.take (clipCount o v.length)).length = clipCount o v.length ∧ o + clipCount o v.length ≤ sndMemoryLength := by
  simp only [clipCount, List.length_take, sndMemoryLength] at *
  omega

/-- MemWrite writes the register file and nothing else (R51, R56). -/
theorem Generator.memWrite_frame (p : Params) (a : U32) (v : List Byte) :
    (g.memWrite p a v).1 = { g with reg := (g.memWrite p a v).1.reg } := by
  unfold Generator.memWrite; split <;> rfl

/-- MemWrite keeps the canonical form of the register file. -/
theorem Generator.memWrite_wf (p : Params) (a : U32) (v : List Byte) (h : g.reg.wf) : (g.memWrite p a v).1.reg.wf := by
  unfold Generator.memWrite
  split
  · exact h
  · rename_i o ho
    obtain ⟨h1, h2⟩ := clip_length (windowOffset_eq_some.1 ho).2 v
    exact Memory.storeBytes_wf h _ (by rw [h1]; exact h2)

@[simp] theorem Generator.memWrite_samples (p a v) : (g.memWrite p a v).1.samples = g.samples := by
  rw [Generator.memWrite_frame]
@[simp] theorem Generator.memWrite_lat (p a v) : (g.memWrite p a v).1.lat = g.lat := by rw [Generator.memWrite_frame]
@[simp] theorem Generator.memWrite_t (p a v) : (g.memWrite p a v).1.t = g.t := by rw [Generator.memWrite_frame]
@[simp] theorem Generator.memWrite_nextTick (p a v) : (g.memWrite p a v).1.nextTick = g.nextTick := by
  rw [Generator.memWrite_frame]
@[simp] theorem Generator.memWrite_tickPeriod (p a v) : (g.memWrite p a v).1.tickPeriod = g.tickPeriod := by
  rw [Generator.memWrite_frame]
@[simp] theorem Generator.memWrite_playing (p a v) : (g.memWrite p a v).1.playing = g.playing := by
  rw [Generator.memWrite_frame]
@[simp] theorem Generator.memWrite_released (p a v) : (g.memWrite p a v).1.released = g.released := by
  rw [Generator.memWrite_frame]

/-- A bus operation writes the register file and nothing else (R56). -/
theorem Generator.busAction_frame (p : Params) (i : Instr) :
    g.busAction p i = { g with reg := (g.busAction p i).reg } := by
  unfold Generator.busAction
  split
  · exact g.memWrite_frame _ _ _
  · rfl

@[simp] theorem Generator.busAction_samples (p i) : (g.busAction p i).samples = g.samples := by rw [Generator.busAction_frame]
@[simp] theorem Generator.busAction_lat (p i) : (g.busAction p i).lat = g.lat := by rw [Generator.busAction_frame]
@[simp] theorem Generator.busAction_t (p i) : (g.busAction p i).t = g.t := by rw [Generator.busAction_frame]
@[simp] theorem Generator.busAction_nextTick (p i) : (g.busAction p i).nextTick = g.nextTick := by rw [Generator.busAction_frame]
@[simp] theorem Generator.busAction_tickPeriod (p i) : (g.busAction p i).tickPeriod = g.tickPeriod := by rw [Generator.busAction_frame]
@[simp] theorem Generator.busAction_playing (p i) : (g.busAction p i).playing = g.playing := by rw [Generator.busAction_frame]
@[simp] theorem Generator.busAction_released (p i) : (g.busAction p i).released = g.released := by rw [Generator.busAction_frame]

/-- A bus operation keeps the canonical form of the register file. -/
theorem Generator.busAction_wf (p : Params) (i : Instr) (h : g.reg.wf) : (g.busAction p i).reg.wf := by
  unfold Generator.busAction
  split
  · exact g.memWrite_wf _ _ _ h
  · exact h

/-! ### The reference channel -/

/-- A disabled channel renders 0 whatever its other registers hold (R118). -/
theorem chRender_of_disabled {c : ChannelNo} {wt : WaveTable} {p : Slice} {t : U32} (h : chEnabled p = false) :
    chRender c wt p t = 0#16 := by
  simp [chRender, h]

/-- An enabled channel renders its wave value at its table index, scaled by its volume (R121). -/
theorem chRender_of_enabled {c : ChannelNo} {wt : WaveTable} {p : Slice} {t : U32} (h : chEnabled p = true) :
    chRender c wt p t = BitVec.ofInt 16 (asr (chWave wt p (chEntry p t) * (chVolume p : Int)) 4) := by
  simp [chRender, h]

/-- The table index from the two frequency bytes and the sample time (R115, R121). -/
theorem chEntry_val (p : Slice) (t : U32) :
    (chEntry p t).val = (p[0].toNat + 256 * p[1].toNat) * t.toNat % 65536 / 1024 := by
  simp only [chEntry, chPhase, chFreq, le16_toNat, Nat.mul_mod_mod]

/-! ### Sequences of atomic steps -/

@[simp] theorem Generator.runActions_nil (p : Params) : g.runActions ch p [] = (g, [], []) := rfl
theorem Generator.runActions_sample (p : Params) (acts : List Action) :
    g.runActions ch p (.sample :: acts) =
      (((g.sample ch).1.runActions ch p acts).1, (g.sample ch).2 :: ((g.sample ch).1.runActions ch p acts).2.1,
        g.slotEvents ++ ((g.sample ch).1.runActions ch p acts).2.2) := rfl
theorem Generator.runActions_bus (p : Params) (i : Instr) (acts : List Action) :
    g.runActions ch p (.bus i :: acts) = (g.busAction p i).runActions ch p acts := rfl

/-- One sequence after another. -/
theorem Generator.runActions_append (p : Params) (a b : List Action) :
    g.runActions ch p (a ++ b) =
      (((g.runActions ch p a).1.runActions ch p b).1,
        (g.runActions ch p a).2.1 ++ ((g.runActions ch p a).1.runActions ch p b).2.1,
        (g.runActions ch p a).2.2 ++ ((g.runActions ch p a).1.runActions ch p b).2.2) := by
  induction a generalizing g with
  | nil => simp
  | cons x a ih => cases x <;> simp [Generator.runActions_sample, Generator.runActions_bus, ih]

/-- As many samples as SAMPLEs. -/
theorem Generator.runActions_samples_length (p : Params) (a : List Action) :
    (g.runActions ch p a).2.1.length = a.count .sample := by
  induction a generalizing g with
  | nil => simp
  | cons x a ih => cases x <;> simp [Generator.runActions_sample, Generator.runActions_bus, ih]

end Sys2Proof.Machine
end

