-- ==== Sys2Proof/Laws/PerInstr.lean ====
section
/-! SUPPORT. Statements about every instruction, one lemma per constructor. -/

namespace Sys2Proof.Laws.EncodeShape

/-- An encoded instruction begins with its opcode byte and has the length rule R75 gives its format. -/
def Statement (i : Instr) : Prop :=
  i.wellFormed = true → (encode i).head? = some i.opcode.code ∧ (encode i).length = i.opcode.format.length (lenField (encode i))

theorem write (a : U32) (data : List Byte) : Statement (.write a data) := by
  intro h
  have hd : data.length < 65536 := by simpa [Instr.wellFormed] using h
  refine ⟨rfl, ?_⟩
  have hl : (le16 ((BitVec.ofNat 16 data.length).extractLsb' 0 8) ((BitVec.ofNat 16 data.length).extractLsb' 8 8)).toNat =
      data.length := by
    rw [le16_bytes16, BitVec.toNat_ofNat]
    omega
  simp [encode, bytes32, bytes16, lenField, Format.length, Instr.opcode, Opcode.format, hl]
  omega

theorem read (a : U32) (len : U16) : Statement (.read a len) := fun _ => ⟨rfl, rfl⟩
theorem size : Statement .size := fun _ => ⟨rfl, rfl⟩
theorem addr : Statement .addr := fun _ => ⟨rfl, rfl⟩
theorem start : Statement .start := fun _ => ⟨rfl, rfl⟩
theorem stop : Statement .stop := fun _ => ⟨rfl, rfl⟩
theorem exit : Statement .exit := fun _ => ⟨rfl, rfl⟩
theorem setrate (hz : U32) : Statement (.setrate hz) := fun _ => ⟨rfl, rfl⟩
theorem seek (time : U32) : Statement (.seek time) := fun _ => ⟨rfl, rfl⟩
theorem pull (n : U16) : Statement (.pull n) := fun _ => ⟨rfl, rfl⟩
theorem mix (n : U16) : Statement (.mix n) := fun _ => ⟨rfl, rfl⟩

end Sys2Proof.Laws.EncodeShape
end

