-- ==== Sys2Proof/Laws/State.lean ====
section
/-! SUPPORT. One lemma per field and update of `State`, true by `rfl`: no later proof unfolds a record update. -/

namespace Sys2Proof.Machine

variable {P : Type}

@[simp] theorem State.respond_params (s : State P) (r : Result) : (s.respond r).params = s.params := rfl
@[simp] theorem State.respond_gen (s : State P) (r : Result) : (s.respond r).gen = s.gen := rfl
@[simp] theorem State.respond_busPort (s : State P) (r : Result) : (s.respond r).busPort = s.busPort := rfl
@[simp] theorem State.respond_streamPort (s : State P) (r : Result) : (s.respond r).streamPort = s.streamPort := rfl
@[simp] theorem State.respond_controlPort (s : State P) (r : Result) : (s.respond r).controlPort = s.controlPort := rfl
@[simp] theorem State.respond_schedule (s : State P) (r : Result) : (s.respond r).schedule = s.schedule := rfl
@[simp] theorem State.respond_active (s : State P) (r : Result) : (s.respond r).active = s.active := rfl
@[simp] theorem State.respond_results (s : State P) (r : Result) : (s.respond r).results = s.results ++ [⟨s.active, r⟩] := rfl
@[simp] theorem State.respond_sampleOut (s : State P) (r : Result) : (s.respond r).sampleOut = s.sampleOut := rfl
@[simp] theorem State.respond_tickOut (s : State P) (r : Result) : (s.respond r).tickOut = s.tickOut := rfl

@[simp] theorem State.reject_params (s : State P) (c : Status) : (s.reject c).params = s.params := rfl
@[simp] theorem State.reject_gen (s : State P) (c : Status) : (s.reject c).gen = s.gen := rfl
@[simp] theorem State.reject_busPort (s : State P) (c : Status) : (s.reject c).busPort = s.busPort := rfl
@[simp] theorem State.reject_streamPort (s : State P) (c : Status) : (s.reject c).streamPort = s.streamPort := rfl
@[simp] theorem State.reject_controlPort (s : State P) (c : Status) : (s.reject c).controlPort = s.controlPort := rfl
@[simp] theorem State.reject_schedule (s : State P) (c : Status) : (s.reject c).schedule = s.schedule := rfl
@[simp] theorem State.reject_active (s : State P) (c : Status) : (s.reject c).active = s.active := rfl
@[simp] theorem State.reject_results (s : State P) (c : Status) : (s.reject c).results = s.results ++ [⟨s.active, { status := c }⟩] := rfl
@[simp] theorem State.reject_sampleOut (s : State P) (c : Status) : (s.reject c).sampleOut = s.sampleOut := rfl
@[simp] theorem State.reject_tickOut (s : State P) (c : Status) : (s.reject c).tickOut = s.tickOut := rfl

@[simp] theorem State.emitSamples_params (s : State P) (vs : List S16) : (s.emitSamples vs).params = s.params := rfl
@[simp] theorem State.emitSamples_gen (s : State P) (vs : List S16) : (s.emitSamples vs).gen = s.gen := rfl
@[simp] theorem State.emitSamples_busPort (s : State P) (vs : List S16) : (s.emitSamples vs).busPort = s.busPort := rfl
@[simp] theorem State.emitSamples_streamPort (s : State P) (vs : List S16) : (s.emitSamples vs).streamPort = s.streamPort := rfl
@[simp] theorem State.emitSamples_controlPort (s : State P) (vs : List S16) : (s.emitSamples vs).controlPort = s.controlPort := rfl
@[simp] theorem State.emitSamples_schedule (s : State P) (vs : List S16) : (s.emitSamples vs).schedule = s.schedule := rfl
@[simp] theorem State.emitSamples_active (s : State P) (vs : List S16) : (s.emitSamples vs).active = s.active := rfl
@[simp] theorem State.emitSamples_results (s : State P) (vs : List S16) : (s.emitSamples vs).results = s.results := rfl
@[simp] theorem State.emitSamples_sampleOut (s : State P) (vs : List S16) : (s.emitSamples vs).sampleOut = s.sampleOut ++ vs := rfl
@[simp] theorem State.emitSamples_tickOut (s : State P) (vs : List S16) : (s.emitSamples vs).tickOut = s.tickOut := rfl

@[simp] theorem State.emitTicks_params (s : State P) (vs : List U32) : (s.emitTicks vs).params = s.params := rfl
@[simp] theorem State.emitTicks_gen (s : State P) (vs : List U32) : (s.emitTicks vs).gen = s.gen := rfl
@[simp] theorem State.emitTicks_busPort (s : State P) (vs : List U32) : (s.emitTicks vs).busPort = s.busPort := rfl
@[simp] theorem State.emitTicks_streamPort (s : State P) (vs : List U32) : (s.emitTicks vs).streamPort = s.streamPort := rfl
@[simp] theorem State.emitTicks_controlPort (s : State P) (vs : List U32) : (s.emitTicks vs).controlPort = s.controlPort := rfl
@[simp] theorem State.emitTicks_schedule (s : State P) (vs : List U32) : (s.emitTicks vs).schedule = s.schedule := rfl
@[simp] theorem State.emitTicks_active (s : State P) (vs : List U32) : (s.emitTicks vs).active = s.active := rfl
@[simp] theorem State.emitTicks_results (s : State P) (vs : List U32) : (s.emitTicks vs).results = s.results := rfl
@[simp] theorem State.emitTicks_sampleOut (s : State P) (vs : List U32) : (s.emitTicks vs).sampleOut = s.sampleOut := rfl
@[simp] theorem State.emitTicks_tickOut (s : State P) (vs : List U32) : (s.emitTicks vs).tickOut = s.tickOut ++ vs := rfl

@[simp] theorem State.sampleStep_params (ch : Channel P) (s : State P) : (s.sampleStep ch).1.params = s.params := rfl
@[simp] theorem State.sampleStep_gen (ch : Channel P) (s : State P) : (s.sampleStep ch).1.gen = (s.gen.sample ch).1 := rfl
@[simp] theorem State.sampleStep_busPort (ch : Channel P) (s : State P) : (s.sampleStep ch).1.busPort = s.busPort := rfl
@[simp] theorem State.sampleStep_streamPort (ch : Channel P) (s : State P) : (s.sampleStep ch).1.streamPort = s.streamPort := rfl
@[simp] theorem State.sampleStep_controlPort (ch : Channel P) (s : State P) : (s.sampleStep ch).1.controlPort = s.controlPort := rfl
@[simp] theorem State.sampleStep_schedule (ch : Channel P) (s : State P) : (s.sampleStep ch).1.schedule = s.schedule := rfl
@[simp] theorem State.sampleStep_active (ch : Channel P) (s : State P) : (s.sampleStep ch).1.active = s.active := rfl
@[simp] theorem State.sampleStep_results (ch : Channel P) (s : State P) : (s.sampleStep ch).1.results = s.results := rfl
@[simp] theorem State.sampleStep_sampleOut (ch : Channel P) (s : State P) : (s.sampleStep ch).1.sampleOut = s.sampleOut ++ [(s.gen.sample ch).2] := rfl
@[simp] theorem State.sampleStep_tickOut (ch : Channel P) (s : State P) : (s.sampleStep ch).1.tickOut = s.tickOut ++ s.gen.slotEvents := rfl

@[simp] theorem State.sampleStep_value (ch : Channel P) (s : State P) : (s.sampleStep ch).2 = (s.gen.sample ch).2 := rfl

@[simp] theorem State.busWrite_params (s : State P) (a : U32) (data : List Byte) : (s.busWrite a data).params = s.params := rfl
@[simp] theorem State.busWrite_gen (s : State P) (a : U32) (data : List Byte) : (s.busWrite a data).gen = (s.gen.memWrite s.params a data).1 := rfl
@[simp] theorem State.busWrite_busPort (s : State P) (a : U32) (data : List Byte) : (s.busWrite a data).busPort = s.busPort := rfl
@[simp] theorem State.busWrite_streamPort (s : State P) (a : U32) (data : List Byte) : (s.busWrite a data).streamPort = s.streamPort := rfl
@[simp] theorem State.busWrite_controlPort (s : State P) (a : U32) (data : List Byte) : (s.busWrite a data).controlPort = s.controlPort := rfl
@[simp] theorem State.busWrite_schedule (s : State P) (a : U32) (data : List Byte) : (s.busWrite a data).schedule = s.schedule := rfl
@[simp] theorem State.busWrite_active (s : State P) (a : U32) (data : List Byte) : (s.busWrite a data).active = s.active := rfl
@[simp] theorem State.busWrite_results (s : State P) (a : U32) (data : List Byte) : (s.busWrite a data).results = s.results ++ [⟨s.active, { status := .ok, count := BitVec.ofNat 16 (s.gen.memWrite s.params a data).2 }⟩] := rfl
@[simp] theorem State.busWrite_sampleOut (s : State P) (a : U32) (data : List Byte) : (s.busWrite a data).sampleOut = s.sampleOut := rfl
@[simp] theorem State.busWrite_tickOut (s : State P) (a : U32) (data : List Byte) : (s.busWrite a data).tickOut = s.tickOut := rfl

@[simp] theorem State.busRead_params (s : State P) (a : U32) (len : U16) : (s.busRead a len).params = s.params := rfl
@[simp] theorem State.busRead_gen (s : State P) (a : U32) (len : U16) : (s.busRead a len).gen = s.gen := rfl
@[simp] theorem State.busRead_busPort (s : State P) (a : U32) (len : U16) : (s.busRead a len).busPort = s.busPort := rfl
@[simp] theorem State.busRead_streamPort (s : State P) (a : U32) (len : U16) : (s.busRead a len).streamPort = s.streamPort := rfl
@[simp] theorem State.busRead_controlPort (s : State P) (a : U32) (len : U16) : (s.busRead a len).controlPort = s.controlPort := rfl
@[simp] theorem State.busRead_schedule (s : State P) (a : U32) (len : U16) : (s.busRead a len).schedule = s.schedule := rfl
@[simp] theorem State.busRead_active (s : State P) (a : U32) (len : U16) : (s.busRead a len).active = s.active := rfl
@[simp] theorem State.busRead_sampleOut (s : State P) (a : U32) (len : U16) : (s.busRead a len).sampleOut = s.sampleOut := rfl
@[simp] theorem State.busRead_tickOut (s : State P) (a : U32) (len : U16) : (s.busRead a len).tickOut = s.tickOut := rfl

@[simp] theorem State.busSize_params (s : State P) : (s.busSize).params = s.params := rfl
@[simp] theorem State.busSize_gen (s : State P) : (s.busSize).gen = s.gen := rfl
@[simp] theorem State.busSize_busPort (s : State P) : (s.busSize).busPort = s.busPort := rfl
@[simp] theorem State.busSize_streamPort (s : State P) : (s.busSize).streamPort = s.streamPort := rfl
@[simp] theorem State.busSize_controlPort (s : State P) : (s.busSize).controlPort = s.controlPort := rfl
@[simp] theorem State.busSize_schedule (s : State P) : (s.busSize).schedule = s.schedule := rfl
@[simp] theorem State.busSize_active (s : State P) : (s.busSize).active = s.active := rfl
@[simp] theorem State.busSize_results (s : State P) : (s.busSize).results = s.results ++ [⟨s.active, { status := .ok, value := 512#32 }⟩] := rfl
@[simp] theorem State.busSize_sampleOut (s : State P) : (s.busSize).sampleOut = s.sampleOut := rfl
@[simp] theorem State.busSize_tickOut (s : State P) : (s.busSize).tickOut = s.tickOut := rfl

@[simp] theorem State.busAddr_params (s : State P) : (s.busAddr).params = s.params := rfl
@[simp] theorem State.busAddr_gen (s : State P) : (s.busAddr).gen = s.gen := rfl
@[simp] theorem State.busAddr_busPort (s : State P) : (s.busAddr).busPort = s.busPort := rfl
@[simp] theorem State.busAddr_streamPort (s : State P) : (s.busAddr).streamPort = s.streamPort := rfl
@[simp] theorem State.busAddr_controlPort (s : State P) : (s.busAddr).controlPort = s.controlPort := rfl
@[simp] theorem State.busAddr_schedule (s : State P) : (s.busAddr).schedule = s.schedule := rfl
@[simp] theorem State.busAddr_active (s : State P) : (s.busAddr).active = s.active := rfl
@[simp] theorem State.busAddr_results (s : State P) : (s.busAddr).results = s.results ++ [⟨s.active, { status := .ok, value := baseAddrWord s.params }⟩] := rfl
@[simp] theorem State.busAddr_sampleOut (s : State P) : (s.busAddr).sampleOut = s.sampleOut := rfl
@[simp] theorem State.busAddr_tickOut (s : State P) : (s.busAddr).tickOut = s.tickOut := rfl

theorem State.busRead_results (s : State P) (a : U32) (len : U16) :
    (s.busRead a len).results = s.results ++ [⟨s.active, {
      status := .ok
      count := BitVec.ofNat 16 (s.gen.memRead s.params a len.toNat).length
      data := s.gen.memRead s.params a len.toNat }⟩] := rfl

@[simp] theorem State.setPending_params (s : State P) (p : Port) (q : List Descriptor) :
    (s.setPending p q).params = s.params := by cases p <;> rfl
@[simp] theorem State.setPending_gen (s : State P) (p : Port) (q : List Descriptor) :
    (s.setPending p q).gen = s.gen := by cases p <;> rfl
@[simp] theorem State.setPending_schedule (s : State P) (p : Port) (q : List Descriptor) :
    (s.setPending p q).schedule = s.schedule := by cases p <;> rfl
@[simp] theorem State.setPending_active (s : State P) (p : Port) (q : List Descriptor) :
    (s.setPending p q).active = s.active := by cases p <;> rfl
@[simp] theorem State.setPending_results (s : State P) (p : Port) (q : List Descriptor) :
    (s.setPending p q).results = s.results := by cases p <;> rfl
@[simp] theorem State.setPending_sampleOut (s : State P) (p : Port) (q : List Descriptor) :
    (s.setPending p q).sampleOut = s.sampleOut := by cases p <;> rfl
@[simp] theorem State.setPending_tickOut (s : State P) (p : Port) (q : List Descriptor) :
    (s.setPending p q).tickOut = s.tickOut := by cases p <;> rfl

@[simp] theorem State.pending_setPending_same (s : State P) (p : Port) (q : List Descriptor) :
    (s.setPending p q).pending p = q := by cases p <;> rfl

theorem State.pending_setPending_other (s : State P) {p p' : Port} (q : List Descriptor) (h : p' ≠ p) :
    (s.setPending p q).pending p' = s.pending p' := by
  cases p <;> cases p' <;> first | rfl | exact absurd rfl h

/-- The requests at the ports depend on the three port fields only. -/
theorem State.pending_congr {s s' : State P} (hb : s'.busPort = s.busPort) (hs : s'.streamPort = s.streamPort)
    (hc : s'.controlPort = s.controlPort) (p : Port) : s'.pending p = s.pending p := by
  cases p <;> simp [State.pending, hb, hs, hc]

@[simp] theorem State.pending_respond (s : State P) (r : Result) (p : Port) : (s.respond r).pending p = s.pending p := by
  cases p <;> rfl

@[simp] theorem State.pending_sampleStep (ch : Channel P) (s : State P) (p : Port) : (s.sampleStep ch).1.pending p = s.pending p := by
  cases p <;> rfl

end Sys2Proof.Machine
end

