-- ==== Sys2Proof/Laws/Requests.lean ====
section
/-! SUPPORT. What taking a request can do, between two operations and inside a MIX, said once. -/

namespace Sys2Proof.Machine

variable {P : Type}

/-- The operations with an effect inside a MIX are the bus operations (R59). -/
theorem State.busOp?_isSome (i : Instr) : (State.busOp? (P := P) i).isSome = i.isBus := by cases i <;> rfl

/-- An instruction is decoded under its own opcode byte (R74). -/
theorem decode_opcode {d : Descriptor} {i : Instr} (h : decode d = .ok i) :
    ∃ opc rest, d = opc :: rest ∧ Opcode.ofByte? opc = some i.opcode := by
  unfold decode at h
  split at h
  · simp at h
  · rename_i opc rest
    split at h
    · simp at h
    · rename_i op hop
      split at h
      · rename_i j hj
        obtain rfl : j = i := by simpa using h
        refine ⟨opc, rest, rfl, hop.trans (congrArg some ?_)⟩
        cases op <;> simp only [decodeOperands, Option.map_eq_some_iff] at hj <;> obtain ⟨f, _, rfl⟩ := hj <;> rfl
      · simp at h

/-- A well-formed request waits exactly if it is not a bus operation (R59). -/
theorem requestWaits_of_decode {d : Descriptor} {i : Instr} (h : decode d = .ok i) : requestWaits d = !i.isBus := by
  obtain ⟨opc, rest, rfl, ho⟩ := decode_opcode h
  simp only [requestWaits, ho, Instr.isBus, bne]

/-- What a bus operation does to the machine: its action on the generator and its answer (R56, R100 to R103). -/
theorem State.busOp_spec {d : Descriptor} {i : Instr} {op : State P → State P} (hd : decode d = .ok i)
    (h : State.busOp? i = some op) (s : State P) :
    ∃ r : Result, r.status = .ok ∧ s.gen.answer? s.params d = some r ∧
      op s = { s with gen := s.gen.busAction s.params i, results := s.results ++ [⟨s.active, r⟩] } := by
  cases i <;> simp only [State.busOp?, Option.some.injEq, reduceCtorEq] at h <;> subst h <;>
    exact ⟨_, rfl, by simp only [Generator.answer?, hd], rfl⟩

/-- What a request ordered inside a MIX can do: a bus operation its action, a malformed one nothing, and its answer. -/
theorem State.insideOp_spec {d : Descriptor} {op : State P → State P} (h : State.insideOp? d = some op) :
    requestWaits d = false ∧ (∀ i, decode d = .ok i → i.isBus = true) ∧
    ∀ s : State P, ∃ r : Result, (r.status = .ok ∨ r.status = .errOpcode ∨ r.status = .errFormat) ∧
      s.gen.answer? s.params d = some r ∧
      op s = { s with
        gen := match decode d with | .ok i => s.gen.busAction s.params i | .error _ => s.gen
        results := s.results ++ [⟨s.active, r⟩] } := by
  unfold State.insideOp? at h
  split at h
  · simp at h
  · rename_i hw
    have hw : requestWaits d = false := by simpa using hw
    refine ⟨hw, fun i hi => ?_, fun s => ?_⟩
    · simpa [hw] using requestWaits_of_decode hi
    · split at h
      · rename_i i hi
        obtain ⟨r, hr, ha, he⟩ := State.busOp_spec hi h s
        exact ⟨r, .inl hr, ha, by simpa [hi] using he⟩
      · rename_i e he
        obtain rfl := Option.some.inj h
        refine ⟨{ status := decodeStatus e }, ?_, by simp [Generator.answer?, he], by simp [he, State.reject, State.respond]⟩
        cases e <;> simp [decodeStatus]

/-- Inside a MIX a request is taken only from the head of another port than the MIX's own, and only if it need not wait; it is
then performed whole. -/
theorem State.serveInside_cases {p : Port} {s s' : State P} (h : s.serveInside p = some s') :
    p ≠ s.active ∧ ∃ d q r, s.pending p = d :: q ∧ requestWaits d = false ∧ (∀ i, decode d = .ok i → i.isBus = true) ∧
      (r.status = .ok ∨ r.status = .errOpcode ∨ r.status = .errFormat) ∧ s.gen.answer? s.params d = some r ∧
      s' = { s.setPending p q with
        gen := match decode d with | .ok i => s.gen.busAction s.params i | .error _ => s.gen
        results := s.results ++ [⟨p, r⟩]
        active := s.active } := by
  unfold State.serveInside at h
  split at h
  · simp at h
  · rename_i hp
    split at h
    · simp at h
    · rename_i d q hd
      split at h
      · simp at h
      · rename_i op hop
        obtain ⟨hw, hb, hs⟩ := State.insideOp_spec hop
        obtain ⟨r, hr, ha, he⟩ := hs { s.setPending p q with active := p }
        refine ⟨hp, d, q, r, hd, hw, hb, hr, by simpa using ha, ?_⟩
        rw [← Option.some.inj h, he]
        simp

/-- One request taken inside a MIX. -/
abbrev ServedOne (s s' : State P) : Prop := ∃ p, s.serveInside p = some s'

/-- The turns before a SAMPLE take some requests, one after another, and rewrite the schedule; nothing else. -/
theorem State.serveTurns_spec (l : List Turn) (s : State P) :
    ∃ s0 sched, Relation.ReflTransGen ServedOne s s0 ∧ State.serveTurns l s = { s0 with schedule := sched } := by
  induction l generalizing s with
  | nil => exact ⟨s, [], .refl, rfl⟩
  | cons turn rest ih =>
    cases turn with
    | sample => exact ⟨s, rest, .refl, rfl⟩
    | port p =>
      cases hp : s.serveInside p with
      | some s' =>
        obtain ⟨s0, sched, hr, he⟩ := ih s'
        exact ⟨s0, sched, .head ⟨p, hp⟩ hr, by simpa [State.serveTurns, hp] using he⟩
      | none =>
        obtain ⟨s0, sched, hr, he⟩ := ih s
        cases hq : s.pending p with
        | nil => exact ⟨s0, sched, hr, by simpa [State.serveTurns, hp, hq] using he⟩
        | cons d q => exact ⟨s0, .port p :: sched, hr, by simp [State.serveTurns, hp, hq, he]⟩

/-- What every request taken inside a MIX keeps, the turns before a SAMPLE keep. -/
theorem State.serveTurns_keeps {R : State P → Prop} (hserve : ∀ {a b}, ServedOne a b → R a → R b)
    (hsched : ∀ {a : State P} (q : List Turn), R a → R { a with schedule := q }) (l : List Turn) {s : State P} (h : R s) :
    R (State.serveTurns l s) := by
  obtain ⟨s0, sched, hr, he⟩ := State.serveTurns_spec l s
  rw [he]
  refine hsched sched ?_
  clear he
  induction hr with
  | refl => exact h
  | tail _ hab ih => exact hserve hab ih

@[simp] theorem State.pending_schedule (s : State P) (l : List Turn) (p : Port) :
    ({ s with schedule := l } : State P).pending p = s.pending p := by cases p <;> rfl

/-- A request ordered inside a MIX neither reads nor writes the schedule. -/
theorem State.insideOp_schedule {d : Descriptor} {op : State P → State P} (h : State.insideOp? d = some op) (s : State P)
    (l : List Turn) : op { s with schedule := l } = { op s with schedule := l } := by
  obtain ⟨-, -, hs⟩ := State.insideOp_spec h
  obtain ⟨r, -, ha, he⟩ := hs s
  obtain ⟨r', -, ha', he'⟩ := hs { s with schedule := l }
  obtain rfl : r' = r := Option.some.inj (ha'.symm.trans ha)
  rw [he, he']

/-- Taking a request inside a MIX neither reads nor writes the schedule. -/
theorem State.serveInside_schedule (p : Port) (s : State P) (l : List Turn) :
    ({ s with schedule := l } : State P).serveInside p = (s.serveInside p).map fun t => { t with schedule := l } := by
  unfold State.serveInside
  rw [State.pending_schedule]
  split
  · rfl
  · split
    · rfl
    · rename_i d q _
      split
      · rfl
      · rename_i op hop
        have hset : ({ ({ s with schedule := l } : State P).setPending p q with active := p } : State P) =
            { ({ s.setPending p q with active := p } : State P) with schedule := l } := by cases p <;> rfl
        exact congrArg (fun t : State P => some { t with active := s.active })
          ((congrArg op hset).trans (State.insideOp_schedule hop _ l))

/-- The turns before a SAMPLE are the list they are given, whatever the schedule holds. -/
theorem State.serveTurns_schedule (l q : List Turn) (s : State P) :
    State.serveTurns l { s with schedule := q } = State.serveTurns l s := by
  induction l generalizing s q with
  | nil => rfl
  | cons turn rest ih =>
    cases turn with
    | sample => rfl
    | port p =>
      simp only [State.serveTurns, State.serveInside_schedule, State.pending_schedule]
      cases s.serveInside p <;> simp [ih]

@[simp] theorem State.sampleSlots_zero (ch : Channel P) (s : State P) : State.sampleSlots ch 0 s = (s, []) := rfl

theorem State.sampleSlots_succ (ch : Channel P) (n : Nat) (s : State P) :
    State.sampleSlots ch (n + 1) s =
      ((State.sampleSlots ch n ((State.serveTurns s.schedule s).sampleStep ch).1).1,
        ((State.serveTurns s.schedule s).gen.sample ch).2 ::
          (State.sampleSlots ch n ((State.serveTurns s.schedule s).sampleStep ch).1).2) := rfl

/-- What the turns before a SAMPLE and a SAMPLE keep, all the samples of a MIX keep. -/
theorem State.sampleSlots_keeps {ch : Channel P} {R : State P → Prop}
    (hturns : ∀ {a : State P} (l : List Turn), R a → R (State.serveTurns l a))
    (hsample : ∀ {a : State P}, R a → R (a.sampleStep ch).1) (n : Nat) {s : State P} (h : R s) :
    R (State.sampleSlots ch n s).1 := by
  induction n generalizing s with
  | zero => exact h
  | succ n ih => rw [State.sampleSlots_succ]; exact ih (hsample (hturns _ h))

/-- What the turns before a SAMPLE can do: some bus operations, and the answers of the requests taken, which come from other
ports than the MIX's (R58, R59). -/
theorem State.serveTurns_run (ch : Channel P) (l : List Turn) (s : State P) :
    ∃ (acts : List Action) (rs : List Response), acts.count .sample = 0 ∧
      s.gen.runActions ch s.params acts = ((State.serveTurns l s).gen, [], []) ∧
      (State.serveTurns l s).sampleOut = s.sampleOut ∧ (State.serveTurns l s).tickOut = s.tickOut ∧
      (State.serveTurns l s).results = s.results ++ rs ∧
      (∀ r ∈ rs, r.port ≠ s.active ∧
        (r.result.status = .ok ∨ r.result.status = .errOpcode ∨ r.result.status = .errFormat)) ∧
      (State.serveTurns l s).params = s.params ∧ (State.serveTurns l s).active = s.active := by
  refine State.serveTurns_keeps (R := fun b => ∃ (acts : List Action) (rs : List Response), acts.count .sample = 0 ∧
    s.gen.runActions ch s.params acts = (b.gen, [], []) ∧ b.sampleOut = s.sampleOut ∧
    b.tickOut = s.tickOut ∧ b.results = s.results ++ rs ∧ (∀ r ∈ rs, r.port ≠ s.active ∧
      (r.result.status = .ok ∨ r.result.status = .errOpcode ∨ r.result.status = .errFormat)) ∧
    b.params = s.params ∧ b.active = s.active) ?_ (fun _ h => h) l ⟨[], [], by simp⟩
  rintro a b ⟨p, hab⟩ ⟨acts, rs, hc, hrun, hso, hto, hres, hok, hpar, hact⟩
  obtain ⟨hp, d, q, r, -, -, -, hr, -, rfl⟩ := State.serveInside_cases hab
  refine ⟨acts ++ (match decode d with | .ok i => [.bus i] | .error _ => []), rs ++ [⟨p, r⟩], ?_, ?_, by simpa, by simpa,
    by simp [hres], ?_, by simpa, by simpa⟩
  · cases decode d <;> simp [hc]
  · cases decode d <;> simp [Generator.runActions_append, Generator.runActions_bus, hrun, hpar]
  · intro x hx
    rcases List.mem_append.1 hx with hx | hx
    · exact hok x hx
    · obtain rfl := List.mem_singleton.1 hx
      exact ⟨by rw [← hact]; exact hp, hr⟩

/-- What the samples of a MIX can do, whatever is ordered between them: some sequence of atomic steps with `n` SAMPLEs, its
outputs, and the answers of the requests taken, which come from other ports (R58, R59, R135). -/
theorem State.sampleSlots_spec (ch : Channel P) (n : Nat) (s : State P) :
    ∃ (acts : List Action) (rs : List Response), acts.count .sample = n ∧
      ((State.sampleSlots ch n s).1.gen, (State.sampleSlots ch n s).2, (State.sampleSlots ch n s).1.tickOut) =
        ((s.gen.runActions ch s.params acts).1, (s.gen.runActions ch s.params acts).2.1,
          s.tickOut ++ (s.gen.runActions ch s.params acts).2.2) ∧
      (State.sampleSlots ch n s).1.sampleOut = s.sampleOut ++ (State.sampleSlots ch n s).2 ∧
      (State.sampleSlots ch n s).1.results = s.results ++ rs ∧
      (∀ r ∈ rs, r.port ≠ s.active ∧
        (r.result.status = .ok ∨ r.result.status = .errOpcode ∨ r.result.status = .errFormat)) ∧
      (State.sampleSlots ch n s).1.params = s.params ∧ (State.sampleSlots ch n s).1.active = s.active := by
  induction n generalizing s with
  | zero => exact ⟨[], [], by simp⟩
  | succ n ih =>
    obtain ⟨acts, rs, hc, hrun, hso, hto, hres, hok, hpar, hact⟩ := State.serveTurns_run ch s.schedule s
    obtain ⟨acts', rs', hc', hrun', hso', hres', hok', hpar', hact'⟩ :=
      ih ((State.serveTurns s.schedule s).sampleStep ch).1
    simp only [Prod.mk.injEq] at hrun'
    refine ⟨acts ++ .sample :: acts', rs ++ rs', by simp [hc, hc'], ?_, ?_, ?_, ?_, ?_, ?_⟩
    · simp [State.sampleSlots_succ, Generator.runActions_append, Generator.runActions_sample, hrun, hrun', hpar, hto]
    · simp [State.sampleSlots_succ, hso', hso]
    · simp [State.sampleSlots_succ, hres', hres]
    · intro x hx
      rcases List.mem_append.1 hx with hx | hx
      · exact hok x hx
      · simpa [hact] using hok' x hx
    · simp [State.sampleSlots_succ, hpar', hpar]
    · simp [State.sampleSlots_succ, hact', hact]

/-- A port with a request gives its oldest one, and the port is the one being served. -/
theorem State.take_cases {p : Port} {s s' : State P} {d : Descriptor} (h : s.take p = some (d, s')) :
    ∃ q, s.pending p = d :: q ∧ s' = { s.setPending p q with active := p } := by
  unfold State.take at h
  split at h
  · simp at h
  · rename_i d' q hq
    simp only [Option.some.injEq, Prod.mk.injEq] at h
    exact ⟨q, by rw [hq, h.1], h.2.symm⟩

/-- Between two operations one request is taken from the head of one port (R58). -/
theorem State.nextRequest_cases {l : List Turn} {s s' : State P} {d : Descriptor} (h : State.nextRequest l s = some (d, s')) :
    ∃ p q sched, s.pending p = d :: q ∧ s' = { ({ s with schedule := sched } : State P).setPending p q with active := p } := by
  induction l with
  | nil =>
    simp only [State.nextRequest, Option.bind_eq_some_iff] at h
    obtain ⟨p, _, hp⟩ := h
    obtain ⟨q, hq, he⟩ := State.take_cases hp
    exact ⟨p, q, [], by cases p <;> simpa [State.pending] using hq, he⟩
  | cons turn rest ih =>
    cases turn with
    | sample => exact ih h
    | port p =>
      simp only [State.nextRequest] at h
      split at h
      · rename_i r hr
        obtain rfl : r = (d, s') := by simpa using h
        obtain ⟨q, hq, he⟩ := State.take_cases hr
        exact ⟨p, q, rest, by cases p <;> simpa [State.pending] using hq, he⟩
      · exact ih h

end Sys2Proof.Machine
end

