-- ==== Sys2Proof/Tests/Slice0.lean ====
section
/-! SUPPORT. Tests and witnesses. Every expected value comes from spec/ (95_test_vectors.md unless another file is named),
never from the model. A `test_` theorem is about one step or one operation; a `witness_` theorem shows data that meet all the
hypotheses of the obligation it names, at the boundary values of its clauses. -/

namespace Sys2Proof.Machine.Tests

/-- The state a next state holds. -/
def after : Host.Outcome State Fault Refusal → State
  | .next s => s
  | .fault _ => State.reset
  | .refused _ => State.reset

/-- The last result record. -/
def lastResult (o : Host.Outcome State Fault Refusal) : Option Result := (after o).results.getLast?.map Response.result

/-- The samples of an operation as integers. -/
def samplesOf (o : Host.Outcome State Fault Refusal) : List Int := (after o).sampleOut.map BitVec.toInt

/-- A machine constructed with a register file. -/
def machine (m : Memory) : State := State.construct { Params.vectors with regReset := m }

/-- `00 04 0F 00 01` at offset `o`: F = 0x0400, V = 15, shared WaveTable, enabled; a zero byte is not listed. -/
def voiceAt (o : Nat) : Memory := [(o + 1, 0x04), (o + 2, 0x0F), (o + 4, 0x01)]

/-- The voice on channel 0. -/
def oneVoice : State := machine (voiceAt 0)

/-- The same with `playing = 1`. -/
def playingVoice : State := { oneVoice with gen := { oneVoice.gen with playing := true } }

/-- After EXIT. -/
def releasedVoice : State := { oneVoice with gen := { oneVoice.gen with released := true } }

/-! ### Well-formedness: the one check, and a term it refuses -/

theorem test_wellFormed_refuses_long_payload : (Instr.write 0x8000 (List.replicate 65536 0)).wellFormed = false := by
  rw [Instr.wellFormed, List.length_replicate]; rfl
theorem test_wellFormed_longest_payload : (Instr.write 0x8000 (List.replicate 65535 0)).wellFormed = true := by
  rw [Instr.wellFormed, List.length_replicate]; rfl

/-! ### Decoding: 30_encoding.md rule R83 and the table of the family -/

theorem test_decode_write : decode [0x01, 0x00, 0x80, 0x00, 0x00, 0x05, 0x00, 0x00, 0x04, 0x0F, 0x00, 0x01] =
    .ok (.write 0x8000 [0x00, 0x04, 0x0F, 0x00, 0x01]) := by decide
theorem test_decode_read : decode [0x02, 0xFF, 0x7F, 0x00, 0x00, 0x03, 0x00] = .ok (.read 0x7FFF 3) := by decide
theorem test_decode_size : decode [0x03] = .ok .size := by decide
theorem test_decode_addr : decode [0x04] = .ok .addr := by decide
theorem test_decode_start : decode [0x05] = .ok .start := by decide
theorem test_decode_stop : decode [0x06] = .ok .stop := by decide
theorem test_decode_exit : decode [0x07] = .ok .exit := by decide
theorem test_decode_setrate : decode [0x08, 0x45, 0xAC, 0x00, 0x00] = .ok (.setrate 44101) := by decide
theorem test_decode_seek : decode [0x09, 0xE8, 0x03, 0x00, 0x00] = .ok (.seek 1000) := by decide
theorem test_decode_pull : decode [0x0A, 0x04, 0x00] = .ok (.pull 4) := by decide
theorem test_decode_mix : decode [0x0B, 0xDA, 0x02] = .ok (.mix 730) := by decide

theorem test_decode_empty : decode [] = .error .empty := by decide
theorem test_decode_reserved_low : decode [0x00] = .error (.reservedOpcode 0x00) := by decide
theorem test_decode_reserved_high : decode [0x0C] = .error (.reservedOpcode 0x0C) := by decide
theorem test_decode_reserved_any_length : decode [0xFF, 0x01, 0x02] = .error (.reservedOpcode 0xFF) := by decide
theorem test_decode_size_too_long : decode [0x03, 0x00] = .error (.wrongLength .size) := by decide
theorem test_decode_write_too_short :
    decode [0x01, 0x00, 0x80, 0x00, 0x00, 0x05, 0x00, 0x00, 0x04, 0x0F, 0x00] = .error (.wrongLength .write) := by decide
theorem test_decode_write_too_long :
    decode [0x01, 0x00, 0x80, 0x00, 0x00, 0x01, 0x00, 0xAA, 0xBB] = .error (.wrongLength .write) := by decide

/-- Length is checked before the operation's own check. -/
theorem test_decode_length_first : decode [0x08, 0x00, 0x00, 0x00] = .error (.wrongLength .setrate) := by decide

theorem test_encode_read : encode (.read 0x81FE 4) = [0x02, 0xFE, 0x81, 0x00, 0x00, 0x04, 0x00] := by decide
theorem test_encode_write :
    encode (.write 0x81FE [1, 2, 3, 4]) = [0x01, 0xFE, 0x81, 0x00, 0x00, 0x04, 0x00, 0x01, 0x02, 0x03, 0x04] := by decide
theorem test_stream : splitStream [0x03, 0x04, 0x0B, 0x01, 0x00] = [[0x03], [0x04], [0x0B, 0x01, 0x00]] := by decide

/-- SAVE is READ BASE, 512; WAVERAM 1 begins at 0x8060 (30_encoding.md rule R83, program P4). -/
theorem test_pseudo_save : encode (save Params.vectors) = [0x02, 0x00, 0x80, 0x00, 0x00, 0x00, 0x02] := by decide
theorem test_pseudo_waveram :
    (encode (waveram Params.vectors 1 (Vector.replicate 32 0x88))).take 8 =
      [0x01, 0x60, 0x80, 0x00, 0x00, 0x20, 0x00, 0x88] := by decide

/-- A reserved opcode takes one byte of a stream (30_encoding.md rule R78). -/
theorem test_stream_resynchronises : splitStream [0x00, 0x03] = [[0x00], [0x03]] := by decide

/-- The table gives every row the opcode byte only; the operand bytes are zero. -/
theorem test_table_word_setrate : decodeTableWord 8 0x08 = some (.setrate 0) := by decide
theorem test_table_word_write : decodeTableWord 8 0x01 = some (.write 0 []) := by decide
theorem test_table_word_reserved : decodeTableWord 8 0x0C = none := by decide

/-! ### WRITE, READ, SIZE, ADDR -/

theorem test_write_last_two_bytes : (after (exec (.write 0x81FE [1, 2, 3, 4]) State.reset)).gen.reg = [(510, 1), (511, 2)] ∧
    lastResult (exec (.write 0x81FE [1, 2, 3, 4]) State.reset) = some { status := .ok, count := 2 } := by decide
theorem test_write_below_window : (after (exec (.write 0x7FFF [1, 2, 3]) State.reset)).gen.reg = [] ∧
    lastResult (exec (.write 0x7FFF [1, 2, 3]) State.reset) = some { status := .ok, count := 0 } := by decide
theorem test_read_truncated : lastResult (exec (.read 0x81FE 4) (machine [(510, 1), (511, 2)])) =
    some { status := .ok, count := 2, data := [1, 2] } := by decide
theorem test_read_undefined_selector_byte : lastResult (exec (.read 0x8003 1) (machine [(3, 7)])) =
    some { status := .ok, count := 1, data := [7] } := by decide
theorem test_size : lastResult (exec .size State.reset) = some { status := .ok, value := 512 } := by decide
theorem test_addr : lastResult (exec .addr State.reset) = some { status := .ok, value := 0x8000 } := by decide

/-! ### START, STOP, EXIT, SEEK, PULL -/

theorem test_start : (after (exec .start State.reset)).gen.playing = true := by decide
theorem test_start_after_exit : lastResult (exec .start releasedVoice) = some { status := .errReleased } ∧
    (after (exec .start releasedVoice)).gen.playing = false := by decide
theorem test_stop : (after (exec .stop playingVoice)).gen.playing = false ∧
    (after (exec .stop playingVoice)).gen.released = false := by decide
theorem test_exit : (after (exec .exit playingVoice)).gen.playing = false ∧
    (after (exec .exit playingVoice)).gen.released = true := by decide
theorem test_seek : lastResult (exec (.seek 1000) playingVoice) = some { status := .errUnsupported } := by decide
theorem test_pull_idle : lastResult (exec (.pull 4) oneVoice) =
      some { status := .ok, count := 4, samples := [0, 0, 0, 0], more := false } ∧
    (after (exec (.pull 4) oneVoice)).gen = oneVoice.gen ∧ (after (exec (.pull 4) oneVoice)).tickOut = [] := by decide
theorem test_pull_playing : samplesOf (exec (.pull 4) playingVoice) = [-30600, -30600, -30600, -30600] ∧
    (lastResult (exec (.pull 4) playingVoice)).map Result.more = some true ∧
    (after (exec (.pull 4) playingVoice)).gen.nextTick = 735 := by decide

/-! ### SETRATE, MIX -/

theorem test_setrate_floor : (after (exec (.setrate 11025) State.reset)).gen.tickPeriod = 4 ∧
    (after (exec (.setrate 1000) State.reset)).gen.tickPeriod = 44 := by decide
theorem test_setrate_corners : (after (exec (.setrate 44101) State.reset)).gen.tickPeriod = 1 ∧
    lastResult (exec (.setrate 0) State.reset) = some { status := .errArg } ∧
    (after (exec (.setrate 0) State.reset)).gen.tickPeriod = 735 := by decide

/-- Program P1. -/
theorem test_mix_one_voice :
    samplesOf (exec (.mix 8) oneVoice) = [-30600, -30600, -30600, -30600, -26520, -26520, -26520, -26520] ∧
    (after (exec (.mix 8) oneVoice)).tickOut = [0] ∧ (after (exec (.mix 8) oneVoice)).gen.t = 8 := by decide

/-- Wrap of `t`. -/
theorem test_mix_wraps_t :
    let s := { oneVoice with gen := { oneVoice.gen with t := 4294967294, nextTick := 4294967295, tickPeriod := 4 } }
    samplesOf (exec (.mix 4) s) = [30600, 30600, -30600, -30600] ∧
    (after (exec (.mix 4) s)).tickOut = [4294967295] ∧
    (after (exec (.mix 4) s)).gen.t = 2 ∧ (after (exec (.mix 4) s)).gen.nextTick = 3 := by decide

/-- Two voices at V = 15 saturate. -/
theorem test_sample_saturates : samplesOf (exec (.mix 1) (machine (voiceAt 0 ++ voiceAt 64))) = [-32768] := by decide

/-- Program P4: own wave memory, the high nibble first. -/
theorem test_sample_own_wave_memory :
    samplesOf (exec (.mix 4) (machine [(65, 4), (66, 8), (67, 1), (68, 1), (96, 0xF0), (97, 0x1E)])) =
      [16320, -16320, -14144, 14144] := by decide

/-- The machine of V-S5 at its MIX 8, a request of the control port: a tick due at `t = 4`, period 4, and a WRITE16 of 0x0880
waiting at the bus port. -/
def midWrite (turns : List Turn) : State :=
  { oneVoice with
    gen := { oneVoice.gen with t := 4, nextTick := 4, tickPeriod := 4 }
    busPort := [encode (write16 0x8000 0x0880)]
    active := .control
    schedule := turns }

/-- V-S5, the WRITE ordered after sample 5. -/
theorem test_mix_write_inside :
    samplesOf (exec (.mix 8) (midWrite [.sample, .sample, .port .bus])) =
      [-26520, -26520, -26520, -26520, -14280, -14280, -10200, -10200] := by decide

/-- V-S5, the WRITE ordered before sample 4. -/
theorem test_mix_write_first :
    samplesOf (exec (.mix 8) (midWrite [.port .bus])) =
      [-22440, -22440, -18360, -18360, -14280, -14280, -10200, -10200] := by decide

/-- A STOP issued during a MIX waits for its end (70_reset_and_hazards.md rule R201). -/
theorem test_mix_stop_waits :
    let s := { playingVoice with controlPort := [[0x06]], schedule := [.sample, .port .control] }
    (after (exec (.mix 2) s)).gen.playing = true ∧ (after (exec (.mix 2) s)).controlPort = [[0x06]] := by decide

/-- A WRITE issued behind a MIX on the same port comes after it (20_memory.md rule R58: an agent's operations keep their order):
the samples are those of V-S5 with the WRITE after sample 11. -/
theorem test_mix_own_port_waits :
    let s := { midWrite [.port .bus, .port .bus] with active := .bus }
    samplesOf (exec (.mix 8) s) = [-26520, -26520, -26520, -26520, -22440, -22440, -22440, -22440] ∧
    (after (exec (.mix 8) s)).busPort = [encode (write16 0x8000 0x0880)] := by decide

/-- A WRITE of the wrong length is answered ERR_FORMAT between two samples, at its own port, and the SIZE behind it goes on
(60_exceptions.md rules R173, R179). -/
theorem test_mix_malformed_write_inside :
    let s := { oneVoice with active := .control, busPort := [[0x01], [0x03]], schedule := [.port .bus, .port .bus] }
    (after (exec (.mix 1) s)).results =
      [⟨.bus, { status := .errFormat }⟩, ⟨.bus, { status := .ok, value := 512 }⟩,
        ⟨.control, { status := .ok, count := 1, samples := [0x8878] }⟩] := by decide

/-! ### The step and the script syntax -/

theorem test_step_reserved_opcode : step { State.reset with busPort := [[0x0C]] } =
    .next { State.reset with results := [⟨.bus, { status := .errOpcode }⟩] } := by rfl

/-- The agents move in the order of the schedule. -/
theorem test_step_takes_scheduled_port :
    (after (step { State.reset with busPort := [[0x03]], streamPort := [[0x0A, 0x01, 0x00]], schedule := [.port .stream] })).results =
      [⟨.stream, { status := .ok, count := 1, samples := [0] }⟩] := by decide

theorem test_script_chset : parseLine Params.vectors "CHSET 0, 0x0400, 15, 0, 1   ; one voice" =
    some (.op (.write 0x8000 [0x00, 0x04, 0x0F, 0x00, 0x01])) := by decide
theorem test_script_write_sum : parseLine Params.vectors "WRITE CH(1)+32, F0 1E" =
    some (.op (.write 0x8060 [0xF0, 0x1E])) := by decide
theorem test_script_reset : parseLine Params.vectors "RESET" = some .reset := by decide

/-! ### Witnesses -/

theorem witness_WriteStoresWindowPrefix_first : ∃ (a : U32) (s : State), a.toNat = s.params.baseAddr.val + 0 :=
  ⟨0x8000, State.reset, by decide⟩
theorem witness_WriteStoresWindowPrefix_last :
    ∃ (a : U32) (s : State) (o : Nat), o = 511 ∧ o < 512 ∧ a.toNat = s.params.baseAddr.val + o :=
  ⟨0x81FF, State.reset, 511, by decide⟩
theorem witness_WriteStoresWindowPrefix_below : ∃ (a : U32) (s : State), a.toNat < s.params.baseAddr.val :=
  ⟨0x7FFF, State.reset, by decide⟩
theorem witness_WriteStoresWindowPrefix_above : ∃ (a : U32) (s : State), s.params.baseAddr.val + 512 ≤ a.toNat :=
  ⟨0x8200, State.reset, by decide⟩
/-- The four cases of READ are those of WRITE. -/
theorem witness_ReadReturnsWindowBytes :
    (∃ (a : U32) (s : State) (o : Nat), o < 512 ∧ a.toNat = s.params.baseAddr.val + o) ∧
    (∃ (a : U32) (s : State), a.toNat < s.params.baseAddr.val) ∧
    (∃ (a : U32) (s : State), s.params.baseAddr.val + 512 ≤ a.toNat) :=
  ⟨⟨0x81FF, State.reset, 511, by decide⟩, ⟨0x7FFF, State.reset, by decide⟩, ⟨0x8200, State.reset, by decide⟩⟩
theorem witness_WriteThenReadRoundTrip : ∃ (a : U32) (data : List Byte) (s : State), data.length < 65536 ∧
    s.params.baseAddr.val ≤ a.toNat ∧ a.toNat + data.length ≤ s.params.baseAddr.val + 512 :=
  ⟨0x81FF, [7], State.reset, by decide⟩
theorem witness_RewritingReadBytesChangesNothing : ∃ s : State, s.gen.reg.wf ∧ s.gen.reg ≠ [] := ⟨oneVoice, by decide⟩
theorem witness_StartSetsPlayingUnlessReleased :
    (∃ s : State, s.gen.released = true) ∧ (∃ s : State, s.gen.released = false ∧ s.gen.playing = true) :=
  ⟨⟨releasedVoice, rfl⟩, ⟨playingVoice, rfl, rfl⟩⟩
theorem witness_StopClearsPlaying : ∃ s : State, s.gen.playing = false := ⟨State.reset, rfl⟩
theorem witness_PullGatesMixByPlaying : (∃ s : State, s.gen.playing = true) ∧ (∃ s : State, s.gen.playing = false) :=
  ⟨⟨playingVoice, rfl⟩, ⟨State.reset, rfl⟩⟩
theorem witness_SetrateDerivesTickPeriod : (∃ hz : U32, hz ≠ 0) ∧ (∃ p : Params, 1 ≤ p.tickRateReset) :=
  ⟨⟨44101, by decide⟩, ⟨Params.vectors, by decide⟩⟩
theorem witness_CalcNextAddsPeriod : ∃ g : Generator Slice, 1 ≤ g.tickPeriod.toNat := ⟨State.reset.gen, by decide⟩
theorem witness_TickLatchesAllChannels :
    (∃ s : State, s.gen.t = s.gen.nextTick) ∧ (∃ s : State, s.gen.t ≠ s.gen.nextTick) :=
  ⟨⟨State.reset, rfl⟩, ⟨{ State.reset with gen := { State.reset.gen with t := 1 } }, by decide⟩⟩
theorem witness_SampleSumsAndSaturates : ∃ (ch : Channel Slice) (g slot : Generator Slice) (acc : Int),
    slot = (if g.t = g.nextTick then g.tick ch else g) ∧
    acc = ∑ c : ChannelNo, (ch.render c slot.samples (slot.lat[c.val]) slot.t).toInt :=
  ⟨referenceChannel, oneVoice.gen, _, _, rfl, rfl⟩
theorem witness_MixWithoutInterleaving : ∃ s : State, s.schedule = [] := ⟨oneVoice, rfl⟩
theorem witness_MixBoundariesInvisible : ∃ a b : U16, a.toNat + b.toNat = 65535 := ⟨65532, 3, by decide⟩
/-- `MIX 10`, `SETRATE 11025`, `MIX 730`: d = 725, P = 4; and both sides of `n <= d`. -/
theorem witness_MixTickSchedule : ∃ (n m : U16) (s : State) (d period : Nat),
    d = s.gen.tickDistance ∧ period = s.gen.tickPeriod.toNat ∧ 1 ≤ period ∧ d < n.toNat ∧ m.toNat ≤ d :=
  ⟨726, 725, { State.reset with gen := { State.reset.gen with t := 10, nextTick := 735, tickPeriod := 4 } }, 725, 4, by decide⟩
theorem witness_TickDistanceCountsDown :
    (∃ g : Generator Slice, 0 < g.tickDistance) ∧ (∃ g : Generator Slice, g.tickDistance = 0 ∧ 1 ≤ g.tickPeriod.toNat) :=
  ⟨⟨{ State.reset.gen with nextTick := 1 }, by decide⟩, ⟨State.reset.gen, by decide⟩⟩
/-- A step with a TICK, on the machine of V-S5. -/
theorem witness_StepKeepsTickWithin : ∃ (s t : State) (last : Nat),
    s.gen.TickWithin last ∧ 1 ≤ s.gen.tickPeriod.toNat ∧ step s = .next t ∧ stepOf referenceChannel s = .next t :=
  ⟨{ oneVoice with busPort := [[0x0B, 0x01, 0x00]] }, _, 1, by decide, by decide, rfl, rfl⟩
theorem witness_StepKeepsMachineInvariant : ∃ s t : State, s.Inv ∧ step s = .next t ∧
    stepOf referenceChannel s = .next t ∧ t.gen.reg ≠ s.gen.reg :=
  ⟨{ State.reset with busPort := [encode (.write 0x8000 [1])] }, _, by decide, rfl, rfl, by decide⟩
theorem witness_ConstructMeetsInvariant : ∃ p : Params, p.Wf := ⟨Params.vectors, by decide⟩
theorem witness_OnlyNamedOperationsWrite : ∃ (i : Instr) (s t : State), exec i s = .next t ∧
    (∀ a data, i ≠ .write a data) ∧ (∀ n, i ≠ .mix n) ∧ (∀ n, i ≠ .pull n) ∧ (∀ hz, i ≠ .setrate hz) ∧
    i ≠ .start ∧ i ≠ .stop ∧ i ≠ .exit :=
  ⟨.seek 1, oneVoice, _, rfl, by simp, by simp, by simp, by simp, by simp, by simp, by simp⟩
theorem witness_ReleasedIsPermanent : ∃ s t : State, s.Inv ∧ s.gen.released = true ∧ step s = .next t :=
  ⟨{ releasedVoice with controlPort := [[0x05]] }, _, by decide, rfl, rfl⟩
theorem witness_LifecycleTransitions : (∃ s : State, s.gen.lifecycle? = some .idle) ∧
    (∃ s : State, s.gen.lifecycle? = some .streaming) ∧ (∃ s : State, s.gen.lifecycle? = some .released) :=
  ⟨⟨State.reset, rfl⟩, ⟨playingVoice, rfl⟩, ⟨releasedVoice, rfl⟩⟩
theorem witness_RejectionChangesNothing : ∃ (i : Instr) (s : State), (∃ time, i = .seek time) ∧
    lastResult (exec i s) = some { status := .errUnsupported } :=
  ⟨.seek 0, State.reset, ⟨0, rfl⟩, by decide⟩

theorem witness_StepRunsDecodedRequest_next : ∃ (s s' : State) (d : Descriptor) (i : Instr),
    State.nextRequest s.schedule s = some (d, s') ∧ decode d = .ok i :=
  ⟨{ State.reset with streamPort := [[0x0A, 0x04, 0x00]] }, _, [0x0A, 0x04, 0x00], .pull 4, rfl, by decide⟩
theorem witness_StepRunsDecodedRequest_turn : ∃ (s : State) (p : Port) (d : Descriptor) (q : List Descriptor)
    (rest : List Turn) (i : Instr), s.schedule = .port p :: rest ∧ s.pending p = d :: q ∧ decode d = .ok i :=
  ⟨{ State.reset with controlPort := [[0x05]], schedule := [.port .control] }, .control, [0x05], [], [], .start,
    rfl, rfl, by decide⟩
theorem witness_StepRunsDecodedRequest_order : ∃ (s u v : State) (d : Descriptor) (i : Instr), decode d = .ok i ∧
    s.schedule = [] ∧ s.busPort = [d] ∧
    u.schedule = [] ∧ u.busPort = [] ∧ u.controlPort = [d] ∧
    v.schedule = [] ∧ v.busPort = [] ∧ v.controlPort = [] ∧ v.streamPort = [d] :=
  ⟨{ State.reset with busPort := [[0x03]] }, { State.reset with controlPort := [[0x03]] },
    { State.reset with streamPort := [[0x03]] }, [0x03], .size, by decide⟩
theorem witness_StepRejectsMalformedRequest_empty :
    ∃ s s' : State, State.nextRequest s.schedule s = some ([], s') :=
  ⟨{ State.reset with busPort := [[]] }, _, rfl⟩
theorem witness_StepRejectsMalformedRequest_opcode : ∃ (s s' u u' : State) (b c : Byte),
    State.nextRequest s.schedule s = some ([b], s') ∧ b = 0 ∧
    State.nextRequest u.schedule u = some ([c], u') ∧ c.toNat = 0x0C :=
  ⟨{ State.reset with busPort := [[0x00]] }, _, { State.reset with busPort := [[0x0C]] }, _, 0x00, 0x0C,
    rfl, rfl, rfl, rfl⟩
theorem witness_StepRejectsMalformedRequest_length : ∃ (s s' : State) (d : Descriptor) (b : Byte) (rest : List Byte) (op : Opcode),
    State.nextRequest s.schedule s = some (d, s') ∧ d = b :: rest ∧ b = op.code ∧ d.length ≠ op.format.length (lenField d) :=
  ⟨{ State.reset with busPort := [[0x0B, 0x08]] }, _, [0x0B, 0x08], 0x0B, [0x08], .mix, rfl, by decide⟩
theorem witness_StepRejectsMalformedRequest_performed : ∃ (s s' : State) (d : Descriptor) (b : Byte) (rest : List Byte) (op : Opcode),
    State.nextRequest s.schedule s = some (d, s') ∧ d = b :: rest ∧ b = op.code ∧ d.length = op.format.length (lenField d) :=
  ⟨{ State.reset with busPort := [[0x0B, 0x08, 0x00]] }, _, [0x0B, 0x08, 0x00], 0x0B, [0x08, 0x00], .mix, rfl, by decide⟩
theorem witness_IdleStepChangesNothing : ∃ s : State, s.schedule ≠ [] ∧ ∀ p : Port, s.pending p = [] :=
  ⟨{ State.reset with schedule := [.sample] }, by decide, by rintro (_ | _ | _) <;> rfl⟩

theorem witness_EveryInterleavingIsAMix : ∃ (acts : List Action) (n : U16), acts.count .sample = n.toNat ∧
    (∀ i, Action.bus i ∈ acts → i.isBus = true ∧ i.wellFormed = true) ∧ (∀ i, acts.getLast? ≠ some (.bus i)) ∧
    Action.bus .size ∈ acts :=
  ⟨[.sample, .bus .size, .sample], 2, by decide, by simp [Instr.isBus, Instr.opcode, Opcode.port, Instr.wellFormed], by simp, by simp⟩
/-- A STOP on the control port, a START of the wrong length there, and a WRITE on the MIX's own port. -/
theorem witness_OtherRequestsWaitForMix :
    (∃ (s : State) (op : Opcode) (rest : List Byte) (q : List Descriptor), s.pending .control = (op.code :: rest) :: q ∧
      op.port ≠ .bus ∧ rest = [] ∧ s.schedule.count (.port .control) = 1) ∧
    (∃ (s : State) (op : Opcode) (rest : List Byte) (q : List Descriptor), s.pending .control = (op.code :: rest) :: q ∧
      op.port ≠ .bus ∧ decode (op.code :: rest) = .error (.wrongLength op)) ∧
    (∃ (s : State) (p : Port) (d : Descriptor) (q : List Descriptor), s.pending p = d :: q ∧ p = s.active ∧
      requestWaits d = false) :=
  ⟨⟨{ State.reset with controlPort := [[0x06]], schedule := [.port .control] }, .stop, [], [], by decide⟩,
    ⟨{ State.reset with controlPort := [[0x05, 0x00]] }, .start, [0x00], [], by decide⟩,
    ⟨{ State.reset with busPort := [[0x01]] }, .bus, [0x01], [], by decide⟩⟩
theorem witness_BusOperationsInvisibleUntilTick : ∃ (g : Generator Slice) (acts acts' : List Action),
    acts.count .sample = acts'.count .sample ∧ acts.count .sample = g.tickDistance ∧ acts ≠ acts' ∧ acts.count .sample = 2 :=
  ⟨{ oneVoice.gen with nextTick := 2 }, [.bus (.write 0x8002 [0]), .sample, .sample], [.sample, .sample], by decide⟩
theorem witness_SnapshotAtTickReproducesSound : ∃ g : Generator Slice, g.t = g.nextTick := ⟨oneVoice.gen, rfl⟩
/-- On channel 7: a WRITE that ends before FREQ, one of exactly FREQ, and one that begins behind its last byte. -/
theorem witness_OneTransactionNeverTears : ∃ (p : Params) (c : ChannelNo) (acts : List Action), acts.length = 4 ∧ c = 7 ∧
    ∀ (a : U32) (data : List Byte), Action.bus (.write a data) ∈ acts → ∀ k : Nat, k < data.length →
      (a.toNat + k = p.baseAddr.val + 64 * c.val → k + 1 < data.length) ∧
      (a.toNat + k = p.baseAddr.val + 64 * c.val + 1 → 0 < k) := by
  refine ⟨Params.vectors, 7,
    [.bus (.write 0x81BF [1]), .bus (.write 0x81C0 [0x80, 0x08]), .sample, .bus (.write 0x81C2 [15])], rfl, rfl, ?_⟩
  intro a data h k hk
  have hb : Params.vectors.baseAddr.val + 64 * (7 : ChannelNo).val = 0x81C0 := by decide
  rw [hb]
  simp only [List.mem_cons, Action.bus.injEq, Instr.write.injEq, List.not_mem_nil, or_false, reduceCtorEq, false_or] at h
  rcases h with ⟨rfl, rfl⟩ | ⟨rfl, rfl⟩ | ⟨rfl, rfl⟩ <;> simp at hk ⊢ <;> omega
theorem witness_SplitWriteTears : ∃ g : Generator Slice, g.t = g.nextTick := ⟨oneVoice.gen, rfl⟩

/-- Own wave memory, an odd entry: `F0 1E` at F = 0x0400 and `t = 3` reads the nibble E. -/
theorem witness_RenderClosedForm : ∃ (p : Slice) (t : U32) (f i l v : Nat) (b : Byte),
    f = p[0].toNat + 256 * p[1].toNat ∧ i = f * t.toNat % 65536 / 1024 ∧ b = (p[32 + i / 2]?).getD 0 ∧
    l = (if p[3] = 1 then (if i % 2 = 0 then b.toNat / 16 else b.toNat % 16) else i / 4) ∧ v = p[2].toNat % 16 ∧ l = 14 :=
  ⟨Memory.slice [(1, 4), (2, 8), (3, 1), (4, 1), (32, 0xF0), (33, 0x1E)] 0, 3, 0x0400, 3, 14, 8, 0x1E, by decide⟩
theorem witness_RenderIgnoresUnusedBits : ∃ p p' : Slice, p ≠ p' ∧
    p'[0] = p[0] ∧ p'[1] = p[1] ∧ p'[2].toNat % 16 = p[2].toNat % 16 ∧
    (p'[3] = p[3] ∨ (p'[3] ≠ 1 ∧ p[3] ≠ 1)) ∧ p'[4].getLsbD 0 = p[4].getLsbD 0 ∧
    (∀ (k : Nat) (h : k < 64), 32 ≤ k → p'[k] = p[k]) := by
  refine ⟨Memory.slice [(1, 4), (2, 0x0F), (4, 1)] 0, Memory.slice [(1, 4), (2, 0x1F), (3, 2), (4, 0xFF)] 0,
    by decide, by decide, by decide, by decide, by decide, by decide, ?_⟩
  intro k h hk
  simp only [Memory.slice, Vector.getElem_ofFn]
  simp [Memory.load]
  interval_cases k <;> rfl
/-- The voice of program P1 after its first sample. -/
theorem witness_SingleVoiceGoldenBuffer : ∃ (n : U16) (s : State), s.schedule = [] ∧ s.gen.samples = wtConstruct ∧
    n.toNat ≤ s.gen.tickDistance ∧ n.toNat = 734 ∧
    s.gen.lat[0][0] = 0x00 ∧ s.gen.lat[0][1] = 0x04 ∧ s.gen.lat[0][2] = 0x0F ∧ s.gen.lat[0][3] = 0x00 ∧ s.gen.lat[0][4] = 0x01 ∧
    (∀ c : ChannelNo, c ≠ 0 → (s.gen.lat[c.val])[4].getLsbD 0 = false) :=
  ⟨734, { oneVoice with gen := { oneVoice.gen with t := 1, nextTick := 735 } }, by decide⟩
theorem witness_WaveTableLookupWraps : ∃ index : U16, index.toNat = 65535 ∧ index.toNat % 64 < 64 := ⟨65535, by decide⟩

theorem witness_DecodeEncode : ∃ i : Instr, i.wellFormed = true := ⟨.write 0x8000 [1, 2], by decide⟩
theorem witness_DecodedDescriptorIsTheEncoding : ∃ (d : Descriptor) (i : Instr), decode d = .ok i :=
  ⟨[0x0B, 0x08, 0x00], .mix 8, by decide⟩
theorem witness_StreamSplitsAtLengths : ∃ ds : List Descriptor, ds = [[0x00], [0x0B, 0x01, 0x00], [0x0C], [0xFF]] ∧
    ∀ d ∈ ds, (∃ i : Instr, i.wellFormed = true ∧ d = encode i) ∨ (∃ b : Byte, d = [b] ∧ (b = 0 ∨ 0x0C ≤ b.toNat)) := by
  refine ⟨_, rfl, ?_⟩
  simp only [List.forall_mem_cons, List.not_mem_nil, false_implies, implies_true, and_true]
  exact ⟨.inr ⟨0x00, rfl, .inl rfl⟩, .inl ⟨.mix 1, rfl, by decide⟩, .inr ⟨0x0C, rfl, by decide⟩, .inr ⟨0xFF, rfl, by decide⟩⟩
theorem witness_FetchedWordRuns : ∃ (nbits w : Nat) (i : Instr), decodeTableWord nbits w = some i := ⟨8, 0x0B, .mix 0, by decide⟩
theorem witness_ConstructedStateHasResetValues : ∃ p : Params, p.Wf ∧ p.regReset ≠ [] :=
  ⟨{ Params.vectors with regReset := voiceAt 0 }, by decide⟩
theorem witness_FreshMachineIsSilent : ∃ (p : Params) (a b c : U32), p.regReset = [] ∧ a.toNat = p.baseAddr.val + 511 ∧
    b.toNat + 1 = p.baseAddr.val ∧ c.toNat = p.baseAddr.val + 512 :=
  ⟨Params.vectors, 0x81FF, 0x7FFF, 0x8200, by decide⟩
theorem witness_WaveramPlacesOwnWaveMemory : ∃ (bytes : Vector Byte 32) (i : Fin wtLen) (b : Byte),
    bytes[i.val / 2]? = some b ∧ i.val = 63 ∧ b = 0x1E :=
  ⟨Vector.replicate 32 0x1E, 63, 0x1E, by decide⟩
theorem witness_Write16AndSaveCoverTheirBytes : ∃ (a : U32) (s : State) (o : Nat), o + 1 < 512 ∧
    a.toNat = s.params.baseAddr.val + o ∧ o = 510 := ⟨0x81FE, State.reset, 510, by decide⟩
theorem witness_EveryChannelMachineLatches : (∃ s : State, s.gen.t = s.gen.nextTick) ∧
    (∃ (s : State) (p : Port) (d : Descriptor) (q : List Descriptor) (rest : List Turn) (i : Instr),
      s.schedule = .port p :: rest ∧ s.pending p = d :: q ∧ decode d = .ok i) :=
  ⟨⟨oneVoice, rfl⟩, witness_StepRunsDecodedRequest_turn⟩

end Sys2Proof.Machine.Tests
end

section

/-! SUPPORT. The tick distance under each micro-operation (10_state.md rule R31), the latch at a tick boundary (R32), and what
every sequence of atomic steps keeps (R20). -/

namespace Sys2Proof.Machine

variable {P : Type} (ch : Channel P) (g : Generator P) (p : Params)

/-- `max(1, SAMPLE_RATE div hz)` fits the u32 it is held in (R130). -/
theorem tickPeriodOf_toNat (sampleRate : U32) (hz : Nat) :
    (tickPeriodOf sampleRate hz).toNat = max 1 (sampleRate.toNat / hz) := by
  have hdiv : sampleRate.toNat / hz ≤ sampleRate.toNat := Nat.div_le_self _ _
  have hrate := sampleRate.isLt
  rw [tickPeriodOf, BitVec.toNat_ofNat]
  omega

/-- No tick period is 0 (R28). -/
theorem one_le_tickPeriodOf (sampleRate : U32) (hz : Nat) : 1 ≤ (tickPeriodOf sampleRate hz).toNat := by
  rw [tickPeriodOf_toNat]
  exact Nat.le_max_left _ _

theorem Generator.tickDue_of_eq {g : Generator P} (h : g.t = g.nextTick) : g.tickDue = true := by
  simp [Generator.tickDue, h]

/-- Before a TICK the distance counts down (R31). -/
theorem Generator.sample_tickDistance_of_pos (h : 0 < g.tickDistance) :
    (g.sample ch).1.tickDistance = g.tickDistance - 1 := by
  have hdue : g.tickDue = false := by
    rw [Bool.eq_false_iff, Ne, Generator.tickDue_iff]
    omega
  rw [Generator.sample_eq, Generator.openSlot_of_not_due ch g hdue]
  simp only [Generator.tickDistance] at h ⊢
  bv_omega

/-- A SAMPLE with a TICK sets the distance to the period in force and counts it down by one (R31). -/
theorem Generator.sample_tickDistance_of_zero (h : g.tickDistance = 0) (hper : 1 ≤ g.tickPeriod.toNat) :
    (g.sample ch).1.tickDistance = g.tickPeriod.toNat - 1 := by
  rw [Generator.sample_eq, Generator.openSlot_of_due ch g ((Generator.tickDue_iff g).2 h)]
  simp only [Generator.tickDistance, Generator.tick_nextTick]
  bv_omega

/-- A slot has no event exactly where no TICK is due (R133). -/
theorem Generator.slotEvents_eq_nil_iff : g.slotEvents = [] ↔ 0 < g.tickDistance := by
  rw [Nat.pos_iff_ne_zero, Ne, ← Generator.tickDue_iff]
  simp [Generator.slotEvents]

@[simp] theorem Generator.busAction_tickDistance (i : Instr) : (g.busAction p i).tickDistance = g.tickDistance := by
  simp [Generator.tickDistance]

/-- Only a WRITE writes the register file (R56). -/
theorem Generator.busAction_of_not_write {i : Instr} (h : ∀ a data, i ≠ .write a data) : g.busAction p i = g := by
  cases i with
  | write a data => exact absurd rfl (h a data)
  | _ => rfl

/-- What a SAMPLE and a bus operation keep, every sequence of atomic steps keeps. -/
theorem Generator.runActions_keeps {R : Generator P → Prop} (hsample : ∀ {x : Generator P}, R x → R (x.sample ch).1)
    (hbus : ∀ {x : Generator P} (i : Instr), R x → R (x.busAction p i)) (acts : List Action) (h : R g) :
    R (g.runActions ch p acts).1 := by
  induction acts generalizing g with
  | nil => exact h
  | cons act acts ih =>
    cases act with
    | sample => exact ih _ (hsample h)
    | bus i => exact ih _ (hbus i h)

/-- Atomic steps leave the WaveTable, the period and the lifecycle as they are (R20). -/
theorem Generator.runActions_frame (acts : List Action) :
    (g.runActions ch p acts).1.samples = g.samples ∧ (g.runActions ch p acts).1.tickPeriod = g.tickPeriod ∧
      (g.runActions ch p acts).1.playing = g.playing ∧ (g.runActions ch p acts).1.released = g.released :=
  Generator.runActions_keeps ch g p
    (R := fun x => x.samples = g.samples ∧ x.tickPeriod = g.tickPeriod ∧ x.playing = g.playing ∧ x.released = g.released)
    (by simp) (by simp) acts (by simp)

/-- Atomic steps keep the canonical form of the register file. -/
theorem Generator.runActions_wf (acts : List Action) (h : g.reg.wf) : (g.runActions ch p acts).1.reg.wf :=
  Generator.runActions_keeps ch g p (R := fun x => x.reg.wf) (by simp) (fun i hx => Generator.busAction_wf _ p i hx) acts h

/-- I-TICK along a sequence of atomic steps: the last period stays where no event is emitted, and is the one in force where
one is (R31). -/
theorem Generator.runActions_tickWithin {last : Nat} (acts : List Action) (h : g.TickWithin last)
    (hper : 1 ≤ g.tickPeriod.toNat) :
    (g.runActions ch p acts).1.TickWithin (if (g.runActions ch p acts).2.2 = [] then last else g.tickPeriod.toNat) := by
  induction acts generalizing g last with
  | nil => simpa using h
  | cons act acts ih =>
    cases act with
    | bus i =>
      have hnext := ih (last := last) (g.busAction p i) (by simpa using h) (by simpa using hper)
      rwa [Generator.busAction_tickPeriod] at hnext
    | sample =>
      rw [Generator.runActions_sample]
      by_cases hpos : 0 < g.tickDistance
      · have hdist := Generator.sample_tickDistance_of_pos ch g hpos
        have hnext := ih (last := last) (g.sample ch).1 (by omega) (by simpa using hper)
        simpa [(Generator.slotEvents_eq_nil_iff g).2 hpos] using hnext
      · have hdist := Generator.sample_tickDistance_of_zero ch g (by omega) hper
        have hnext := ih (last := g.tickPeriod.toNat) (g.sample ch).1 (by omega) (by simpa using hper)
        simpa [(Generator.slotEvents_eq_nil_iff g).not.2 hpos] using hnext

/-- With a TICK due a SAMPLE overwrites the latch before it reads it (R32). -/
theorem Generator.sample_latch_of_due (lat : Vector P nChannels) (h : g.t = g.nextTick) :
    ({ g with lat := lat } : Generator P).sample ch = g.sample ch := by
  have hdue := Generator.tickDue_of_eq h
  rw [Generator.sample_eq, Generator.sample_eq, Generator.openSlot_of_due ch g hdue,
    Generator.openSlot_of_due ch { g with lat := lat } hdue]
  rfl

/-- A bus operation neither reads nor writes the latch (R56). -/
theorem Generator.busAction_latch (lat : Vector P nChannels) (i : Instr) :
    ({ g with lat := lat } : Generator P).busAction p i = { g.busAction p i with lat := lat } := by
  cases i with
  | write a data =>
    simp only [Generator.busAction, Generator.memWrite]
    split <;> rfl
  | _ => rfl

/-- With a TICK due the latch has no influence on the samples and the events to come (R32). -/
theorem Generator.runActions_latch_of_due (lat : Vector P nChannels) (acts : List Action) (h : g.t = g.nextTick) :
    (({ g with lat := lat } : Generator P).runActions ch p acts).2 = (g.runActions ch p acts).2 := by
  induction acts generalizing g with
  | nil => rfl
  | cons act acts ih =>
    cases act with
    | sample =>
      rw [Generator.runActions_sample, Generator.runActions_sample, Generator.sample_latch_of_due ch g lat h]
      rfl
    | bus i =>
      rw [Generator.runActions_bus, Generator.runActions_bus, Generator.busAction_latch]
      exact ih _ (by simpa using h)

/-- A SAMPLE with a TICK leaves every channel latched from the registers (R25, R32). -/
theorem Generator.sample_latched_of_due (h : g.t = g.nextTick) : (g.sample ch).1.Latched ch := by
  rw [Generator.sample_eq, Generator.openSlot_of_due ch g (Generator.tickDue_of_eq h)]
  exact Generator.tick_latched ch g

end Sys2Proof.Machine
end

section

/-! SUPPORT. What one operation and one step can do to the machine, said once (10_state.md rule R20, 60_exceptions.md
rule R178). -/

namespace Sys2Proof.Machine

variable {P : Type} {ch : Channel P} {s t : State P} {i : Instr}

/-- What an operation can do to the machine, with its guard: the column "Written by" of the state table (R20). -/
inductive State.OpEffect (ch : Channel P) (s : State P) : Instr → State P → Prop
  /-- WRITE, READ, SIZE, ADDR: its action on the register file and its answer -/
  | bus {i : Instr} (r : Result) : i.isBus = true →
    State.OpEffect ch s i ({ s with gen := s.gen.busAction s.params i }.respond r)
  /-- SEEK is always rejected -/
  | seek (time : U32) : State.OpEffect ch s (.seek time) (s.reject .errUnsupported)
  /-- SETRATE with rate 0 is rejected -/
  | setrateZero : State.OpEffect ch s (.setrate 0#32) (s.reject .errArg)
  | setrate (hz : U32) (r : Result) : hz ≠ 0#32 →
    State.OpEffect ch s (.setrate hz)
      ({ s with gen := { s.gen with tickPeriod := tickPeriodOf s.params.sampleRate hz.toNat } }.respond r)
  /-- START after EXIT is rejected -/
  | startReleased : s.gen.released = true → State.OpEffect ch s .start (s.reject .errReleased)
  | start (r : Result) : s.gen.released = false →
    State.OpEffect ch s .start ({ s with gen := { s.gen with playing := true } }.respond r)
  | stop (r : Result) : State.OpEffect ch s .stop ({ s with gen := { s.gen with playing := false } }.respond r)
  | exit (r : Result) :
    State.OpEffect ch s .exit ({ s with gen := { s.gen with playing := false, released := true } }.respond r)
  /-- a PULL that finds `playing = 0` -/
  | silence (n : U16) (vs : List S16) (r : Result) : s.gen.playing = false →
    State.OpEffect ch s (.pull n) ((s.emitSamples vs).respond r)
  /-- a PULL that finds `playing = 1` -/
  | pull (n : U16) : s.gen.playing = true → State.OpEffect ch s (.pull n) (s.runMix ch n true)
  | mix (n : U16) : State.OpEffect ch s (.mix n) (s.runMix ch n false)

/-- Every operation has one of the effects of the state table. -/
theorem execOf_cases (h : execOf ch i s = .next t) : s.OpEffect ch i t := by
  cases i with
  | write | read | size | addr => cases h; exact .bus _ rfl
  | start =>
    simp only [execOf, execStart] at h
    split at h
    · cases h; exact .startReleased ‹_›
    · cases h; exact .start _ (Bool.eq_false_iff.2 ‹_›)
  | stop => cases h; exact .stop _
  | exit => cases h; exact .exit _
  | setrate hz =>
    simp only [execOf, execSetrate] at h
    split at h
    · rename_i hz0
      cases h; subst hz0; exact .setrateZero
    · cases h; exact .setrate hz _ ‹_›
  | seek time => cases h; exact .seek time
  | pull n =>
    simp only [execOf, execPullOf] at h
    split at h
    · cases h; exact .pull n ‹_›
    · cases h; exact .silence n _ _ (Bool.eq_false_iff.2 ‹_›)
  | mix n => cases h; exact .mix n

/-- A MIX and a playing PULL do to the generator what some sequence of atomic steps does (R58, R135). -/
theorem State.runMix_run (ch : Channel P) (n : U16) (more : Bool) (s : State P) :
    ∃ acts : List Action, acts.count .sample = n.toNat ∧
      (s.runMix ch n more).gen = (s.gen.runActions ch s.params acts).1 ∧
      (s.runMix ch n more).tickOut = s.tickOut ++ (s.gen.runActions ch s.params acts).2.2 ∧
      (s.runMix ch n more).params = s.params ∧ (s.runMix ch n more).active = s.active := by
  obtain ⟨acts, _, hcount, hrun, -, -, -, hparams, hactive⟩ := State.sampleSlots_spec ch n.toNat s
  simp only [Prod.mk.injEq] at hrun
  obtain ⟨hgen, -, htick⟩ := hrun
  exact ⟨acts, hcount, hgen, htick, hparams, hactive⟩

/-- What a MIX and a playing PULL leave as it is (R20). -/
theorem State.runMix_frame (ch : Channel P) (n : U16) (more : Bool) (s : State P) :
    (s.runMix ch n more).params = s.params ∧ (s.runMix ch n more).active = s.active ∧
      (s.runMix ch n more).gen.samples = s.gen.samples ∧ (s.runMix ch n more).gen.tickPeriod = s.gen.tickPeriod ∧
      (s.runMix ch n more).gen.playing = s.gen.playing ∧ (s.runMix ch n more).gen.released = s.gen.released := by
  obtain ⟨acts, -, hgen, -, hparams, hactive⟩ := State.runMix_run ch n more s
  rw [hgen]
  exact ⟨hparams, hactive, Generator.runActions_frame ch s.gen s.params acts⟩

@[simp] theorem State.pending_reject (s : State P) (c : Status) (p : Port) : (s.reject c).pending p = s.pending p :=
  State.pending_respond _ _ _

@[simp] theorem State.pending_emitSamples (s : State P) (vs : List S16) (p : Port) :
    (s.emitSamples vs).pending p = s.pending p :=
  State.pending_congr rfl rfl rfl p

@[simp] theorem State.pending_gen (s : State P) (g : Generator P) (p : Port) :
    ({ s with gen := g } : State P).pending p = s.pending p :=
  State.pending_congr rfl rfl rfl p

/-- A step does nothing, or takes one request from the head of a port and performs it or answers its rejection (R58, R178). -/
theorem stepOf_cases (h : stepOf ch s = .next t) :
    t = s ∨ ∃ p d q sched s0, s.pending p = d :: q ∧
      s0 = { ({ s with schedule := sched } : State P).setPending p q with active := p } ∧
      ((∃ i, decode d = .ok i ∧ execOf ch i s0 = .next t) ∨ ∃ e, decode d = .error e ∧ t = s0.reject (decodeStatus e)) := by
  unfold stepOf State.serveNext at h
  split at h
  · cases h; exact .inl rfl
  · rename_i d s0 hreq
    obtain ⟨p, q, sched, hpend, hs0⟩ := State.nextRequest_cases hreq
    refine .inr ⟨p, d, q, sched, s0, hpend, hs0, ?_⟩
    split at h
    · exact .inl ⟨_, ‹_›, h⟩
    · cases h; exact .inr ⟨_, ‹_›, rfl⟩

/-- The lifecycle is legal exactly where the generator does not play after EXIT (R156). -/
theorem Generator.lifecycle?_ne_none_iff {g : Generator P} :
    g.lifecycle? ≠ none ↔ g.playing = false ∨ g.released = false := by
  unfold Generator.lifecycle?
  cases g.playing <;> cases g.released <;> simp

/-- The machine invariant speaks of the register file, the period and the lifecycle bits. -/
theorem State.inv_iff :
    s.Inv ↔ s.gen.reg.wf ∧ 1 ≤ s.gen.tickPeriod.toNat ∧ (s.gen.playing = false ∨ s.gen.released = false) := by
  rw [State.Inv, Generator.lifecycle?_ne_none_iff]

/-- A MIX and a playing PULL keep the machine invariant. -/
theorem State.runMix_inv (ch : Channel P) (n : U16) (more : Bool) (h : s.Inv) : (s.runMix ch n more).Inv := by
  obtain ⟨hwf, hper, hlife⟩ := State.inv_iff.1 h
  obtain ⟨-, -, -, hperiod, hplay, hrel⟩ := State.runMix_frame ch n more s
  obtain ⟨acts, -, hgen, -⟩ := State.runMix_run ch n more s
  refine State.inv_iff.2 ⟨?_, by rwa [hperiod], by rwa [hplay, hrel]⟩
  rw [hgen]
  exact Generator.runActions_wf ch s.gen s.params acts hwf

/-- Every operation keeps the machine invariant (R28, R156). -/
theorem execOf_inv (hs : s.Inv) (h : execOf ch i s = .next t) : t.Inv := by
  obtain ⟨hwf, hper, hlife⟩ := State.inv_iff.1 hs
  cases execOf_cases h with
  | bus r _ => exact State.inv_iff.2 ⟨Generator.busAction_wf s.gen s.params i hwf, by simpa using hper, by simpa using hlife⟩
  | seek | setrateZero | startReleased | silence => exact hs
  | setrate hz => exact State.inv_iff.2 ⟨hwf, one_le_tickPeriodOf _ _, hlife⟩
  | start _ hrel => exact State.inv_iff.2 ⟨hwf, hper, .inr hrel⟩
  | stop | exit => exact State.inv_iff.2 ⟨hwf, hper, .inl rfl⟩
  | pull n => exact State.runMix_inv ch n true hs
  | mix n => exact State.runMix_inv ch n false hs

/-- Every step keeps the machine invariant. -/
theorem stepOf_inv (hs : s.Inv) (h : stepOf ch s = .next t) : t.Inv := by
  obtain rfl | ⟨p, d, q, sched, s0, -, rfl, ⟨i, -, hexec⟩ | ⟨e, -, rfl⟩⟩ := stepOf_cases h
  · exact hs
  · exact execOf_inv (by simpa using hs) hexec
  · simpa [State.Inv] using hs

/-- I-TICK from one state to a later one, `P_last` being updated where the later one has a further event (R31). -/
def State.KeepsTickWithin (s t : State P) : Prop :=
  ∀ last : Nat, s.gen.TickWithin last → 1 ≤ s.gen.tickPeriod.toNat →
    t.gen.TickWithin (if t.tickOut.length = s.tickOut.length then last else s.gen.tickPeriod.toNat)

/-- Without a TICK, what leaves the distance to the next one as it is keeps I-TICK. -/
theorem State.keepsTickWithin_of_tickDistance_eq (htick : t.tickOut = s.tickOut)
    (hdist : t.gen.tickDistance = s.gen.tickDistance) : s.KeepsTickWithin t := by
  intro last hlast _
  simpa [htick, hdist] using hlast

/-- I-TICK through a MIX or a playing PULL. -/
theorem State.keepsTickWithin_runMix (ch : Channel P) (n : U16) (more : Bool) (s : State P) :
    s.KeepsTickWithin (s.runMix ch n more) := by
  intro last hlast hper
  obtain ⟨acts, -, hgen, htick, -⟩ := State.runMix_run ch n more s
  simpa [hgen, htick] using Generator.runActions_tickWithin ch s.gen s.params acts hlast hper

/-- I-TICK through every operation. SETRATE writes the period and not the tick already scheduled (R138). -/
theorem execOf_keepsTickWithin (h : execOf ch i s = .next t) : s.KeepsTickWithin t := by
  cases execOf_cases h with
  | bus => exact State.keepsTickWithin_of_tickDistance_eq rfl (Generator.busAction_tickDistance s.gen s.params i)
  | seek | setrateZero | setrate | startReleased | start | stop | exit | silence =>
    exact State.keepsTickWithin_of_tickDistance_eq rfl rfl
  | pull n => exact State.keepsTickWithin_runMix ch n true s
  | mix n => exact State.keepsTickWithin_runMix ch n false s

/-- I-TICK through every step. -/
theorem stepOf_keepsTickWithin (h : stepOf ch s = .next t) : s.KeepsTickWithin t := by
  obtain rfl | ⟨p, d, q, sched, s0, -, rfl, ⟨i, -, hexec⟩ | ⟨e, -, rfl⟩⟩ := stepOf_cases h
  · exact State.keepsTickWithin_of_tickDistance_eq rfl rfl
  · simpa [State.KeepsTickWithin] using execOf_keepsTickWithin hexec
  · exact State.keepsTickWithin_of_tickDistance_eq (by simp) (by simp)

/-- The machine's operations are those of the parametric machine at the reference channel (R33, R110). -/
theorem exec_eq_execOf (i : Instr) (s : State) : exec i s = execOf referenceChannel i s := by
  cases i <;> rfl

/-- The machine's step is that of the parametric machine at the reference channel (R33, R110). -/
theorem step_eq_stepOf (s : State) : step s = stepOf referenceChannel s := by
  have hexec : exec = execOf referenceChannel := funext fun i => funext fun s => exec_eq_execOf i s
  rw [step, stepOf, hexec]

/-- The turn of a port with a request serves the oldest one (R58). -/
theorem stepOf_of_turn {p : Port} {d : Descriptor} {q : List Descriptor} {rest : List Turn}
    (hsched : s.schedule = .port p :: rest) (hpend : s.pending p = d :: q) (hdec : decode d = .ok i) :
    stepOf ch s = execOf ch i { ({ s with schedule := rest } : State P).setPending p q with active := p } := by
  have htake : ({ s with schedule := rest } : State P).take p =
      some (d, { ({ s with schedule := rest } : State P).setPending p q with active := p }) := by
    simp only [State.take, State.pending_schedule, hpend]
  simp only [stepOf, State.serveNext, hsched, State.nextRequest, htake, hdec]

/-- Construction latches every channel from the reset image (R25, R190). -/
theorem State.constructOf_latched (ch : Channel P) (p : Params) : (State.constructOf ch p).gen.Latched ch := by
  intro c
  simp [State.constructOf]

/-- Right after construction a TICK is due (R190). -/
@[simp] theorem State.constructOf_tickDistance (ch : Channel P) (p : Params) :
    (State.constructOf ch p).gen.tickDistance = 0 := by
  simp [Generator.tickDistance, State.constructOf]

end Sys2Proof.Machine
end

section

/-! The obligations about the state (10_state.md). -/

namespace Sys2Proof.Machine

/-- Settles O23: an operation without a TICK leaves the distance as it is or lets it count down, and each TICK of a MIX sets it
below the period in force. -/
theorem stepKeepsTickWithin : Obligations.StepKeepsTickWithin := by
  unfold Obligations.StepKeepsTickWithin
  refine ⟨fun s t last hlast hper h => ?_, fun P ch s t last hlast hper h => stepOf_keepsTickWithin h last hlast hper⟩
  rw [step_eq_stepOf] at h
  exact stepOf_keepsTickWithin h last hlast hper

/-- Settles O24: every effect of an operation keeps the three parts of the invariant. -/
theorem stepKeepsMachineInvariant : Obligations.StepKeepsMachineInvariant := by
  unfold Obligations.StepKeepsMachineInvariant
  refine ⟨fun s t hs h => ?_, fun P ch s t hs h => stepOf_inv hs h⟩
  rw [step_eq_stepOf] at h
  exact stepOf_inv hs h

/-- Settles O22: the distance is 0 exactly where a TICK is due, and a SAMPLE takes one from it or from the new period. -/
theorem tickDistanceCountsDown : Obligations.TickDistanceCountsDown := by
  intro P ch g
  exact ⟨Generator.tickDue_iff g, Generator.sample_tickDistance_of_pos ch g, Generator.sample_tickDistance_of_zero ch g⟩

/-- Settles O26, effect by effect. -/
theorem onlyNamedOperationsWrite : Obligations.OnlyNamedOperationsWrite := by
  intro i s t h
  rw [exec_eq_execOf] at h
  cases execOf_cases h with
  | bus r hbus =>
    refine ⟨rfl, rfl, by simp, fun hi _ _ => ?_, fun _ _ => by simp, by simp, by simp, by simp⟩
    simp [Generator.busAction_of_not_write _ _ hi]
  | seek | setrateZero | setrate | startReleased | start | stop | exit | silence => simp
  | pull n =>
    obtain ⟨hparams, hactive, hsamples, hperiod, hplay, hrel⟩ := State.runMix_frame referenceChannel n true s
    simp [hparams, hactive, hsamples, hperiod, hplay, hrel]
  | mix n =>
    obtain ⟨hparams, hactive, hsamples, hperiod, hplay, hrel⟩ := State.runMix_frame referenceChannel n false s
    simp [hparams, hactive, hsamples, hperiod, hplay, hrel]

/-- Settles O38: the first SAMPLE has its TICK before its render, and no bus operation before it touches `t`, `nextTick` or the
latch. -/
theorem snapshotAtTickReproducesSound : Obligations.SnapshotAtTickReproducesSound := by
  intro P ch p g lat acts h
  exact Generator.runActions_latch_of_due ch g p lat acts h

/-- Settles O25: the register image is canonical, the period is at least 1, the machine is idle and a TICK is due. -/
theorem constructMeetsInvariant : Obligations.ConstructMeetsInvariant := by
  have hinv : ∀ p : Params, p.regReset.wf → (State.construct p).Inv := fun p hwf =>
    State.inv_iff.2 ⟨hwf, one_le_tickPeriodOf _ _, .inl rfl⟩
  refine ⟨fun p hp => ?_, hinv Params.vectors Memory.wf_nil⟩
  obtain ⟨-, -, hwf⟩ := hp
  exact ⟨hinv p hwf, by simp [State.construct, Generator.TickWithin]⟩

/-- Settles O52: the period by `tickPeriodOf_toNat`, the latch by the slice it copies, the rest as construction writes it. -/
theorem constructedStateHasResetValues : Obligations.ConstructedStateHasResetValues := by
  intro p _
  refine ⟨rfl, rfl, fun c k hk => ?_, rfl, rfl, tickPeriodOf_toNat _ _, rfl, rfl, rfl, rfl, rfl, by decide⟩
  simp [State.construct, State.constructOf, referenceChannel, chConfigure, Memory.slice]

/-- Settles O58: arm by arm for `exec`, and the step runs it. -/
theorem machineIsReferenceInstance : Obligations.MachineIsReferenceInstance :=
  ⟨exec_eq_execOf, step_eq_stepOf, fun _ => rfl⟩

/-- Settles O59, for a due slot, construction and the turn of a port. -/
theorem everyChannelMachineLatches : Obligations.EveryChannelMachineLatches := by
  intro P ch
  exact ⟨fun s h => Generator.sample_latched_of_due ch s.gen h, State.constructOf_latched ch,
    fun s p d q rest i hsched hpend hdec => stepOf_of_turn hsched hpend hdec⟩

end Sys2Proof.Machine
end

section

/-! SUPPORT. MemWrite and MemRead by where the address lies, and how one undoes the other (20_memory.md rules R51, R52, R56). -/

namespace Sys2Proof

/-- Writing bytes that stand there already is no change (R56). -/
theorem Memory.storeBytes_loadBytes {m : Memory} (hm : m.wf) {o n : Nat} (h : o + n ≤ sndMemoryLength) :
    m.storeBytes o (m.loadBytes o n) = m := by
  refine Memory.ext_of_wf (Memory.storeBytes_wf hm _ (by simpa using h)) hm fun j => ?_
  by_cases hj : o ≤ j ∧ j < o + n
  · obtain ⟨k, rfl⟩ := Nat.exists_eq_add_of_le hj.1
    rw [Memory.load_storeBytes_inside _ (by simp; omega), Memory.loadBytes_getElem]
  · exact Memory.load_storeBytes_outside _ (by simp; omega)

/-- Reading what was just written gives the bytes written. -/
theorem Memory.loadBytes_storeBytes (m : Memory) (o : Nat) (bs : List Byte) :
    (m.storeBytes o bs).loadBytes o bs.length = bs := by
  refine List.ext_getElem (by simp) fun k _ hk => ?_
  rw [Memory.loadBytes_getElem, Memory.load_storeBytes_inside _ hk]

end Sys2Proof

namespace Sys2Proof.Machine

variable {P : Type} (g : Generator P) {p : Params} {a : U32} {o : Nat}

/-- Inside the window MemWrite stores the first bytes of its payload, as many as lie in it (R51). -/
theorem Generator.memWrite_inside (v : List Byte) (h : windowOffset p a = some o) :
    g.memWrite p a v =
      ({ g with reg := g.reg.storeBytes o (v.take (clipCount o v.length)) }, clipCount o v.length) := by
  simp only [Generator.memWrite, h]

/-- Outside the window MemWrite does nothing (R51). -/
theorem Generator.memWrite_outside (v : List Byte) (h : windowOffset p a = none) : g.memWrite p a v = (g, 0) := by
  simp only [Generator.memWrite, h]

/-- Inside the window MemRead gives the bytes that lie in it (R52). -/
theorem Generator.memRead_inside (n : Nat) (h : windowOffset p a = some o) :
    g.memRead p a n = g.reg.loadBytes o (clipCount o n) := by
  simp only [Generator.memRead, h]

/-- Outside the window MemRead gives nothing (R52). -/
theorem Generator.memRead_outside (n : Nat) (h : windowOffset p a = none) : g.memRead p a n = [] := by
  simp only [Generator.memRead, h]

/-- The count of MemWrite is at most the payload's length and the window's (R51). -/
theorem Generator.memWrite_count_le (p : Params) (a : U32) (v : List Byte) :
    (g.memWrite p a v).2 ≤ v.length ∧ (g.memWrite p a v).2 ≤ sndMemoryLength := by
  cases hw : windowOffset p a with
  | none => simp [Generator.memWrite_outside g v hw]
  | some o =>
    rw [Generator.memWrite_inside g v hw]
    simp only [clipCount, sndMemoryLength]
    omega

/-- A MemWrite that lies wholly in the window is applied whole (R51). -/
theorem Generator.memWrite_count_of_within (v : List Byte) (hlow : p.baseAddr.val ≤ a.toNat)
    (hhigh : a.toNat + v.length ≤ p.baseAddr.val + sndMemoryLength) : (g.memWrite p a v).2 = v.length := by
  cases hw : windowOffset p a with
  | none =>
    have := windowOffset_eq_none.1 hw
    rw [Generator.memWrite_outside g v hw]
    omega
  | some o =>
    have := windowOffset_eq_some.1 hw
    rw [Generator.memWrite_inside g v hw]
    simp only [clipCount]
    omega

/-- The round trip of MemWrite and MemRead: the bytes read are those written. -/
theorem Generator.memRead_memWrite (p : Params) (a : U32) (v : List Byte) :
    (g.memWrite p a v).1.memRead p a v.length = v.take (g.memWrite p a v).2 := by
  cases hw : windowOffset p a with
  | none => simp [Generator.memWrite_outside g v hw, Generator.memRead_outside _ _ hw]
  | some o =>
    obtain ⟨hlen, -⟩ := clip_length (windowOffset_eq_some.1 hw).2 v
    have hback := Memory.loadBytes_storeBytes g.reg o (v.take (clipCount o v.length))
    rw [hlen] at hback
    rw [Generator.memRead_inside _ _ hw, Generator.memWrite_inside g v hw]
    exact hback

/-- MemWrite of the bytes that MemRead gives changes nothing (R56). -/
theorem Generator.memWrite_memRead (p : Params) (a : U32) (n : Nat) (hwf : g.reg.wf) :
    (g.memWrite p a (g.memRead p a n)).1 = g := by
  cases hw : windowOffset p a with
  | none => rw [Generator.memWrite_outside g _ hw]
  | some o =>
    obtain ⟨-, ho⟩ := windowOffset_eq_some.1 hw
    have hclip : clipCount o (clipCount o n) = clipCount o n := by simp [clipCount]
    have hfit : o + clipCount o n ≤ sndMemoryLength := by simp only [clipCount]; omega
    rw [Generator.memRead_inside g n hw, Generator.memWrite_inside g _ hw, Memory.loadBytes_length, hclip,
      List.take_of_length_le (by simp), Memory.storeBytes_loadBytes hwf hfit]

end Sys2Proof.Machine
end

section

/-! The obligations about WRITE and READ (20_memory.md sections 1 and 2). -/

namespace Sys2Proof.Machine

/-- Settles O1: by where the address lies, with read after write for the bytes inside and outside the transfer. -/
theorem writeStoresWindowPrefix : Obligations.WriteStoresWindowPrefix := by
  intro a data s
  refine ⟨fun o ho ha => ?_, fun hout => ?_⟩
  · have hw := windowOffset_eq_some.2 ⟨ha, ho⟩
    obtain ⟨hlen, -⟩ := clip_length ho data
    refine ⟨s.gen.reg.storeBytes o (data.take (clipCount o data.length)), ?_, fun k hk hko => ?_, fun j hj => ?_⟩
    · simp only [exec, execWrite, State.busWrite, Generator.memWrite_inside s.gen data hw]
      rfl
    · have hin : k < (data.take (clipCount o data.length)).length := by
        rw [hlen]; exact Nat.lt_min.2 ⟨hk, hko⟩
      rw [Memory.load_storeBytes_inside _ hin, List.getElem_take]
    · exact Memory.load_storeBytes_outside _ (by rw [hlen]; exact hj)
  · simp only [exec, execWrite, State.busWrite, Generator.memWrite_outside s.gen data (windowOffset_eq_none.2 hout)]
    rfl

/-- Settles O2: by where the address lies. -/
theorem readReturnsWindowBytes : Obligations.ReadReturnsWindowBytes := by
  intro a len s
  refine ⟨fun o ho ha => ?_, fun hout => ?_⟩
  · have hw := windowOffset_eq_some.2 ⟨ha, ho⟩
    simp only [exec, execRead, State.busRead, Generator.memRead_inside s.gen _ hw, Memory.loadBytes_length]
    rfl
  · simp only [exec, execRead, State.busRead, Generator.memRead_outside s.gen _ (windowOffset_eq_none.2 hout)]
    rfl

/-- Settles O5: both counts are that of MemWrite, and MemRead gives back the bytes it stored. -/
theorem writeThenReadRoundTrip : Obligations.WriteThenReadRoundTrip := by
  intro a data s hlen
  have hback := Generator.memRead_memWrite s.gen s.params a data
  obtain ⟨hle, hwindow⟩ := Generator.memWrite_count_le s.gen s.params a data
  have hlen16 : (BitVec.ofNat 16 data.length).toNat = data.length := by
    rw [BitVec.toNat_ofNat, Nat.mod_eq_of_lt hlen]
  refine ⟨s.busWrite a data, (s.busWrite a data).busRead a (BitVec.ofNat 16 data.length),
    (s.gen.memWrite s.params a data).2, rfl, rfl, hle, hwindow, rfl, rfl, ?_,
    Generator.memWrite_count_of_within s.gen data⟩
  rw [State.busRead_results, State.busWrite_gen, State.busWrite_params, State.busWrite_active, hlen16, hback,
    List.length_take, Nat.min_eq_left hle]

/-- Settles O6: the register file is canonical, so a transfer of the bytes that stand there gives the same file. -/
theorem rewritingReadBytesChangesNothing : Obligations.RewritingReadBytesChangesNothing := by
  intro a len s hwf
  exact ⟨_, rfl, Generator.memWrite_memRead s.gen s.params a len.toNat hwf⟩

/-- Settles O30: the turn of a port by `stepOf_of_turn`, the default order by the first port where a request waits. -/
theorem stepRunsDecodedRequest : Obligations.StepRunsDecodedRequest := by
  refine ⟨fun s s' d i hreq hdec => ?_, fun s p d q rest i hsched hpend hdec => ?_, fun s d q i hsched hdec => ?_⟩
  · simp only [step, State.serveNext, hreq, hdec]
  · rw [step_eq_stepOf, exec_eq_execOf, stepOf_of_turn hsched hpend hdec]
  · have hstep : ∀ p, s.firstPending = some p → s.pending p = d :: q →
        step s = exec i { s.setPending p q with active := p } := by
      intro p hfirst hpend
      have hs : ({ s with schedule := [] } : State) = s := by rw [← hsched]
      simp only [step, State.serveNext, hsched, State.nextRequest, hfirst, Option.bind_some, hs, State.take, hpend, hdec]
    exact ⟨fun hbus => hstep .bus (by simp [State.firstPending, hbus]) hbus,
      fun hbus hcontrol => hstep .control (by simp [State.firstPending, hbus, hcontrol]) hcontrol,
      fun hbus hcontrol hstream =>
        hstep .stream (by simp [State.firstPending, hbus, hcontrol, hstream]) hstream⟩

end Sys2Proof.Machine
end

section

/-! SUPPORT. What atomic steps do to the sound before a TICK (20_memory.md rule R60), and the frequency a TICK latches while
WRITEs are ordered around it (rule R55). -/

namespace Sys2Proof.Machine

variable {P : Type} (ch : Channel P) (g : Generator P) (p : Params)

/-- Where no TICK is due a SAMPLE does not look at the register file (R25). -/
theorem Generator.sample_reg_of_not_due (m : Memory) (h : 0 < g.tickDistance) :
    ({ g with reg := m } : Generator P).sample ch = ({ (g.sample ch).1 with reg := m }, (g.sample ch).2) := by
  have hdue : g.tickDue = false := by
    rw [Bool.eq_false_iff, Ne, Generator.tickDue_iff]
    omega
  rw [Generator.sample_eq, Generator.sample_eq, Generator.openSlot_of_not_due ch g hdue,
    Generator.openSlot_of_not_due ch { g with reg := m } hdue]
  rfl

/-- Up to the next TICK the sound of any order is that of its SAMPLEs alone, whatever the registers hold, and there is no
event (R60). -/
theorem Generator.runActions_eq_samplesRun (m : Memory) (acts : List Action) (h : acts.count .sample ≤ g.tickDistance) :
    (({ g with reg := m } : Generator P).runActions ch p acts).2 = (g.samplesRun ch p (acts.count .sample)).2 ∧
      (g.samplesRun ch p (acts.count .sample)).2.2 = [] := by
  induction acts generalizing g m with
  | nil => exact ⟨rfl, rfl⟩
  | cons act acts ih =>
    cases act with
    | bus i =>
      rw [List.count_cons_of_ne (by simp)] at h ⊢
      rw [Generator.runActions_bus, Generator.busAction_frame]
      exact ih g _ h
    | sample =>
      rw [List.count_cons_self] at h ⊢
      have hpos : 0 < g.tickDistance := by omega
      have hdist := Generator.sample_tickDistance_of_pos ch g hpos
      obtain ⟨hsame, hnone⟩ := ih (g.sample ch).1 m (by omega)
      have hquiet := (Generator.slotEvents_eq_nil_iff g).2 hpos
      have hquiet' := (Generator.slotEvents_eq_nil_iff { g with reg := m }).2 hpos
      have hsucc : ∀ n, g.samplesRun ch p (n + 1) = g.runActions ch p (.sample :: List.replicate n .sample) := fun _ => rfl
      rw [hsucc, Generator.runActions_sample, Generator.runActions_sample, Generator.sample_reg_of_not_due ch g m hpos,
        hquiet, hquiet', hsame]
      exact ⟨rfl, hnone⟩

/-- What a SAMPLE and the bus operations of a sequence keep, the sequence keeps. -/
theorem Generator.runActions_keeps_of_mem {R : Generator P → Prop} (acts : List Action)
    (hsample : ∀ {x : Generator P}, R x → R (x.sample ch).1)
    (hbus : ∀ {x : Generator P} {i : Instr}, Action.bus i ∈ acts → R x → R (x.busAction p i)) (h : R g) :
    R (g.runActions ch p acts).1 := by
  induction acts generalizing g with
  | nil => exact h
  | cons act acts ih =>
    have htail : ∀ {x : Generator P} {i : Instr}, Action.bus i ∈ acts → R x → R (x.busAction p i) :=
      fun hi => hbus (List.mem_cons_of_mem _ hi)
    cases act with
    | sample => exact ih _ htail (hsample h)
    | bus i => exact ih _ htail (hbus List.mem_cons_self h)

/-! ### The frequency of the reference channel -/

/-- A SAMPLE latches the frequency that stands in the registers where a TICK is due, and keeps the latch where none is. -/
theorem Generator.freqLatched_sample (g : Generator Slice) (c : ChannelNo) :
    (g.sample referenceChannel).1.freqLatched c = if g.tickDue then g.freqWritten c else g.freqLatched c := by
  rw [Generator.sample_eq]
  cases hdue : g.tickDue with
  | true =>
    rw [Generator.openSlot_of_due _ g hdue]
    simp [Generator.freqLatched, Generator.freqWritten, Generator.tick, Generator.latch, Generator.calcNext,
      referenceChannel, chConfigure, chFreq, Memory.slice]
  | false => rw [Generator.openSlot_of_not_due _ g hdue]; rfl

@[simp] theorem Generator.freqWritten_sample (g : Generator Slice) (c : ChannelNo) :
    (g.sample referenceChannel).1.freqWritten c = g.freqWritten c := by
  simp [Generator.freqWritten]

@[simp] theorem Generator.freqLatched_busAction (g : Generator Slice) (p : Params) (i : Instr) (c : ChannelNo) :
    (g.busAction p i).freqLatched c = g.freqLatched c := by
  simp [Generator.freqLatched]

/-- A frequency that nothing has torn: the one latched before, the one in the registers before, or one that a single WRITE of
the order carries. -/
def IsWholeFreq (p : Params) (g : Generator Slice) (c : ChannelNo) (acts : List Action) (f : U16) : Prop :=
  f = g.freqLatched c ∨ f = g.freqWritten c ∨
    ∃ (a : U32) (data : List Byte) (k : Nat) (h : k + 1 < data.length), Action.bus (.write a data) ∈ acts ∧
      a.toNat + k = p.baseAddr.val + 64 * c.val ∧ f = le16 data[k] data[k + 1]

/-- A WRITE reaches both bytes of the FREQ of channel `c` or neither. -/
def WholeFreq (p : Params) (c : ChannelNo) (a : U32) (data : List Byte) : Prop :=
  ∀ k : Nat, k < data.length →
    (a.toNat + k = p.baseAddr.val + 64 * c.val → k + 1 < data.length) ∧
    (a.toNat + k = p.baseAddr.val + 64 * c.val + 1 → 0 < k)

/-- A WRITE that carries FREQ whole leaves it as it was or writes the two bytes it carries (R55). -/
theorem Generator.freqWritten_memWrite (g : Generator Slice) {p : Params} {c : ChannelNo} {a : U32} {data : List Byte}
    (hwhole : WholeFreq p c a data) :
    (g.memWrite p a data).1.freqWritten c = g.freqWritten c ∨
      ∃ (k : Nat) (h : k + 1 < data.length), a.toNat + k = p.baseAddr.val + 64 * c.val ∧
        (g.memWrite p a data).1.freqWritten c = le16 data[k] data[k + 1] := by
  cases hw : windowOffset p a with
  | none => exact .inl (by rw [Generator.memWrite_outside g data hw])
  | some o =>
    obtain ⟨ha, ho⟩ := windowOffset_eq_some.1 hw
    obtain ⟨hlen, -⟩ := clip_length ho data
    rw [Generator.memWrite_inside g data hw]
    have hc := c.isLt
    simp only [Generator.freqWritten, clipCount, nChannels, sndMemoryLength, sliceLen] at ho hlen hc ⊢
    by_cases hreach : o ≤ 64 * c.val ∧ 64 * c.val < o + data.length
    · obtain ⟨k, hk⟩ := Nat.exists_eq_add_of_le hreach.1
      obtain ⟨hboth, -⟩ := hwhole k (by omega)
      have hk1 : k + 1 < data.length := hboth (by omega)
      refine .inr ⟨k, hk1, by omega, ?_⟩
      rw [hk, Nat.add_assoc o k 1, Memory.load_storeBytes_inside _ (by rw [hlen]; omega),
        Memory.load_storeBytes_inside _ (by rw [hlen]; omega), List.getElem_take, List.getElem_take]
    · have hfirst : o = 64 * c.val + 1 → data.length = 0 := by
        intro heq
        by_contra hne
        obtain ⟨-, hpos⟩ := hwhole 0 (by omega)
        exact Nat.lt_irrefl 0 (hpos (by omega))
      exact .inl (by rw [Memory.load_storeBytes_outside _ (by rw [hlen]; omega),
        Memory.load_storeBytes_outside _ (by rw [hlen]; omega)])

end Sys2Proof.Machine
end

section

/-! The obligations about what a TICK makes audible (20_memory.md rules R55, R60). -/

namespace Sys2Proof.Machine

/-- Settles O37: both orders sound as their SAMPLEs alone. -/
theorem busOperationsInvisibleUntilTick : Obligations.BusOperationsInvisibleUntilTick := by
  intro P ch p g acts acts' hcount hle
  obtain ⟨hacts, hnone⟩ := Generator.runActions_eq_samplesRun ch g p g.reg acts hle
  obtain ⟨hacts', -⟩ := Generator.runActions_eq_samplesRun ch g p g.reg acts' (hcount ▸ hle)
  rw [hacts, hacts', ← hcount]
  exact ⟨rfl, hnone⟩

/-- Settles O39: that the latch and the registers hold a whole frequency is kept by a SAMPLE, which copies the one to the other
where a TICK is due, and by each WRITE that carries FREQ whole. -/
theorem oneTransactionNeverTears : Obligations.OneTransactionNeverTears := by
  intro p g c acts hwhole
  suffices h : IsWholeFreq p g c acts ((g.runActions referenceChannel p acts).1.freqLatched c) ∧
      IsWholeFreq p g c acts ((g.runActions referenceChannel p acts).1.freqWritten c) from h.1
  refine Generator.runActions_keeps_of_mem referenceChannel g p
    (R := fun x => IsWholeFreq p g c acts (x.freqLatched c) ∧ IsWholeFreq p g c acts (x.freqWritten c)) acts ?_ ?_
    ⟨.inl rfl, .inr (.inl rfl)⟩
  · rintro x ⟨hlatched, hwritten⟩
    rw [Generator.freqLatched_sample, Generator.freqWritten_sample]
    exact ⟨by split <;> assumption, hwritten⟩
  · rintro x i hi ⟨hlatched, hwritten⟩
    rw [Generator.freqLatched_busAction]
    refine ⟨hlatched, ?_⟩
    cases i with
    | write a data =>
      obtain hkeep | ⟨k, hk, hat, hcarried⟩ := Generator.freqWritten_memWrite x (hwhole a data hi)
      · exact hkeep ▸ hwritten
      · exact .inr (.inr ⟨a, data, k, hk, hi, hat, hcarried⟩)
    | _ => exact hwritten

end Sys2Proof.Machine
end

section

/-! SUPPORT. The decoder reads back what the encoder writes (30_encoding.md rules R72 to R74). -/

namespace Sys2Proof

theorem Opcode.ofByte?_code (op : Opcode) : Opcode.ofByte? op.code = some op := by cases op <;> rfl

/-- Every well-formed instruction is read back from its descriptor (R72, R73). -/
theorem decode_encode {i : Instr} (h : i.wellFormed = true) : decode (encode i) = .ok i := by
  cases i with
  | write a data =>
    have hlen : data.length % 65536 = data.length := Nat.mod_eq_of_lt (by simpa [Instr.wellFormed] using h)
    simp [decode, encode, Opcode.ofByte?_code, Instr.opcode, decodeOperands, bytes32, bytes16, fieldsW, le32_bytes32,
      le16_bytes16, hlen]
  | read a len =>
    simp [decode, encode, Opcode.ofByte?_code, Instr.opcode, decodeOperands, bytes32, bytes16, fieldsR, le32_bytes32,
      le16_bytes16]
  | setrate | seek =>
    simp [decode, encode, Opcode.ofByte?_code, Instr.opcode, decodeOperands, bytes32, fieldsC, le32_bytes32]
  | pull | mix =>
    simp [decode, encode, Opcode.ofByte?_code, Instr.opcode, decodeOperands, bytes16, fieldsS, le16_bytes16]
  | size | addr | start | stop | exit => rfl

end Sys2Proof
end

section

/-! SUPPORT. A MIX as the order of its atomic steps (20_memory.md rules R55, R58, R59): every order the schedule leads to, the
requests that wait, and the schedule that leads to a given order. -/

namespace Sys2Proof.Machine

variable {P : Type} {ch : Channel P}

/-! ### The requests of an order -/

/-- A request that may stand between two SAMPLEs is one that answers there, whatever the generator holds (R58, R59, R173). -/
theorem Generator.answer?_isSome {d : Descriptor} (h : ∀ i, decode d = .ok i → i.isBus = true) (g : Generator P)
    (p : Params) : (g.answer? p d).isSome := by
  unfold Generator.answer?
  cases hd : decode d with
  | error e => rfl
  | ok i =>
    have hbus := h i hd
    cases i with
    | write | read | size | addr => rfl
    | start | stop | exit | setrate | seek | pull | mix => cases hbus

/-- The answers of one order after another. -/
theorem Generator.answers_append (ch : Channel P) (p : Params) (a b : List AtomicStep) (g : Generator P) :
    g.answers ch p (a ++ b) =
      g.answers ch p a ++ (g.runActions ch p (a.filterMap AtomicStep.action?)).1.answers ch p b := by
  induction a generalizing g with
  | nil => rfl
  | cons x a ih =>
    cases x with
    | sample => exact ih _
    | request port d =>
      cases hd : decode d <;>
        simp [Generator.answers, AtomicStep.action?, hd, ih, Generator.runActions_bus]

/-- The atomic steps `order` lead from `s` to `t`: the generator, the outputs, the answers and the ports are those of the
order, and nothing else but the schedule changes (R55, R58, R59). -/
structure State.Leads (ch : Channel P) (s : State P) (order : List AtomicStep) (t : State P) : Prop where
  params : t.params = s.params
  active : t.active = s.active
  gen : t.gen = (s.gen.runActions ch s.params (order.filterMap AtomicStep.action?)).1
  sampleOut : t.sampleOut = s.sampleOut ++ (s.gen.runActions ch s.params (order.filterMap AtomicStep.action?)).2.1
  tickOut : t.tickOut = s.tickOut ++ (s.gen.runActions ch s.params (order.filterMap AtomicStep.action?)).2.2
  results : t.results = s.results ++ s.gen.answers ch s.params order
  taken : ∀ p d, AtomicStep.request p d ∈ order →
    p ≠ s.active ∧ requestWaits d = false ∧ ∀ i, decode d = .ok i → i.isBus = true
  pending : ∀ p : Port, s.pending p = order.filterMap (AtomicStep.requestAt? p) ++ t.pending p

theorem State.Leads.refl (s : State P) : s.Leads ch [] s :=
  ⟨rfl, rfl, rfl, (List.append_nil _).symm, (List.append_nil _).symm, (List.append_nil _).symm, by simp, fun _ => rfl⟩

theorem State.Leads.trans {s t u : State P} {a b : List AtomicStep} (h : s.Leads ch a t) (h' : t.Leads ch b u) :
    s.Leads ch (a ++ b) u where
  params := h'.params.trans h.params
  active := h'.active.trans h.active
  gen := by rw [h'.gen, h.gen, h.params, List.filterMap_append, Generator.runActions_append]
  sampleOut := by
    rw [h'.sampleOut, h.sampleOut, h.gen, h.params, List.filterMap_append, Generator.runActions_append, List.append_assoc]
  tickOut := by
    rw [h'.tickOut, h.tickOut, h.gen, h.params, List.filterMap_append, Generator.runActions_append, List.append_assoc]
  results := by rw [h'.results, h.results, h.gen, h.params, Generator.answers_append, List.append_assoc]
  taken := by
    intro p d hmem
    rcases List.mem_append.1 hmem with hmem | hmem
    · exact h.taken p d hmem
    · exact h.active ▸ h'.taken p d hmem
  pending := by
    intro p
    rw [h.pending p, h'.pending p, List.filterMap_append, List.append_assoc]

/-- The schedule is no part of what atomic steps do. -/
theorem State.Leads.schedule {s t : State P} {order : List AtomicStep} (h : s.Leads ch order t) (l : List Turn) :
    s.Leads ch order { t with schedule := l } :=
  ⟨h.params, h.active, h.gen, h.sampleOut, h.tickOut, h.results, h.taken, fun p =>
    (h.pending p).trans (congrArg _ (State.pending_schedule t l p).symm)⟩

/-- A SAMPLE is one atomic step. -/
theorem State.leads_sampleStep (ch : Channel P) (s : State P) : s.Leads ch [.sample] (s.sampleStep ch).1 where
  params := rfl
  active := rfl
  gen := rfl
  sampleOut := rfl
  tickOut := by simp [AtomicStep.action?, Generator.runActions_sample]
  results := (List.append_nil _).symm
  taken := by simp
  pending := fun p => (State.pending_sampleStep ch s p).symm

/-- A request taken inside a MIX leaves the other ports, the schedule and the port of the MIX as they are. -/
theorem State.serveInside_frame {p : Port} {s t : State P} {d : Descriptor} {q : List Descriptor}
    (hpend : s.pending p = d :: q) (h : s.serveInside p = some t) :
    t.pending p = q ∧ (∀ p', p' ≠ p → t.pending p' = s.pending p') ∧ t.schedule = s.schedule ∧ t.active = s.active := by
  obtain ⟨-, d', q', r, hpend', -, -, -, -, ht⟩ := State.serveInside_cases h
  obtain ⟨rfl, rfl⟩ : d = d' ∧ q = q' := by simpa using hpend.symm.trans hpend'
  have hports : ∀ p', t.pending p' = (s.setPending p q).pending p' := fun p' =>
    State.pending_congr (by rw [ht]) (by rw [ht]) (by rw [ht]) p'
  exact ⟨by simp [hports], fun p' hp' => by rw [hports, State.pending_setPending_other s q hp'], by simp [ht], by simp [ht]⟩

/-- A request taken inside a MIX is one atomic step: it is the oldest of its port, and it is performed whole. -/
theorem State.leads_serveInside (ch : Channel P) {p : Port} {s t : State P} {d : Descriptor} {q : List Descriptor}
    (hpend : s.pending p = d :: q) (h : s.serveInside p = some t) : s.Leads ch [.request p d] t := by
  obtain ⟨hsame, hother, -, hactive⟩ := State.serveInside_frame hpend h
  obtain ⟨hport, d', q', r, hpend', hwaits, hbus, -, hanswer, ht⟩ := State.serveInside_cases h
  obtain ⟨rfl, -⟩ : d = d' ∧ q = q' := by simpa using hpend.symm.trans hpend'
  have hrun : s.gen.runActions ch s.params ([AtomicStep.request p d].filterMap AtomicStep.action?) = (t.gen, [], []) := by
    cases hd : decode d <;> simp [ht, AtomicStep.action?, hd, Generator.runActions_bus]
  refine ⟨by simp [ht], hactive, by rw [hrun], by simp [hrun, ht], by simp [hrun, ht], ?_, ?_, fun p' => ?_⟩
  · simp [ht, Generator.answers, hanswer]
  · intro p' d' hmem
    obtain ⟨rfl, rfl⟩ : p' = p ∧ d' = d := by simpa using hmem
    exact ⟨hport, hwaits, hbus⟩
  · by_cases hp : p = p'
    · subst hp
      simp [AtomicStep.requestAt?, hpend, hsame]
    · simp [AtomicStep.requestAt?, hp, hother p' (Ne.symm hp)]

/-- The turns before a SAMPLE are an order of requests. -/
theorem State.serveTurns_leads (ch : Channel P) (l : List Turn) (s : State P) :
    ∃ order : List AtomicStep, order.count .sample = 0 ∧ s.Leads ch order (State.serveTurns l s) := by
  refine State.serveTurns_keeps (R := fun t => ∃ order : List AtomicStep, order.count .sample = 0 ∧ s.Leads ch order t)
    ?_ ?_ l ⟨[], rfl, .refl s⟩
  · rintro t u ⟨p, hserve⟩ ⟨order, hcount, hleads⟩
    obtain ⟨-, d, q, -, hpend, -⟩ := State.serveInside_cases hserve
    exact ⟨order ++ [.request p d], by simp [hcount], hleads.trans (State.leads_serveInside ch hpend hserve)⟩
  · rintro t q ⟨order, hcount, hleads⟩
    exact ⟨order, hcount, hleads.schedule q⟩

/-- The samples of a MIX are an order with `n` SAMPLEs (R58, R135). -/
theorem State.sampleSlots_leads (ch : Channel P) (n : Nat) (s : State P) :
    ∃ order : List AtomicStep, order.count .sample = n ∧ s.Leads ch order (State.sampleSlots ch n s).1 ∧
      (State.sampleSlots ch n s).2 = (s.gen.runActions ch s.params (order.filterMap AtomicStep.action?)).2.1 := by
  obtain ⟨_, -, -, -, hout, -⟩ := State.sampleSlots_spec ch n s
  suffices h : ∃ order : List AtomicStep, order.count .sample = n ∧ s.Leads ch order (State.sampleSlots ch n s).1 by
    obtain ⟨order, hcount, hleads⟩ := h
    exact ⟨order, hcount, hleads, List.append_cancel_left (hout.symm.trans hleads.sampleOut)⟩
  clear hout
  induction n generalizing s with
  | zero => exact ⟨[], rfl, .refl s⟩
  | succ n ih =>
    obtain ⟨before, hbefore, hleads⟩ := State.serveTurns_leads ch s.schedule s
    obtain ⟨after, hafter, hleads'⟩ := ih ((State.serveTurns s.schedule s).sampleStep ch).1
    refine ⟨before ++ [.sample] ++ after, by simp [hbefore, hafter], ?_⟩
    exact (hleads.trans (State.leads_sampleStep ch _)).trans hleads'

/-! ### The requests that wait -/

/-- A request that may not be taken inside a MIX stays where it is, and so do the turns of its port (R58, R59). -/
def State.Waits (s : State P) (p : Port) (d : Descriptor) (q : List Descriptor) : Prop :=
  s.pending p = d :: q ∧ (p = s.active ∨ requestWaits d = true)

theorem State.Waits.serveInside_eq_none {s : State P} {p : Port} {d : Descriptor} {q : List Descriptor}
    (h : s.Waits p d q) : s.serveInside p = none := by
  obtain ⟨hpend, hwait⟩ := h
  cases hserve : s.serveInside p with
  | none => rfl
  | some t =>
    obtain ⟨hport, d', q', -, hpend', hnot, -⟩ := State.serveInside_cases hserve
    obtain ⟨rfl, -⟩ : d = d' ∧ q = q' := by simpa using hpend.symm.trans hpend'
    rcases hwait with hactive | hwaits
    · exact absurd hactive hport
    · simp [hwaits] at hnot

/-- A request of another port that is taken leaves it waiting. -/
theorem State.Waits.of_serveInside {s t : State P} {p p' : Port} {d : Descriptor} {q : List Descriptor}
    (h : s.Waits p d q) (hserve : s.serveInside p' = some t) : t.Waits p d q := by
  have hne : p ≠ p' := by
    rintro rfl
    simp [h.serveInside_eq_none] at hserve
  obtain ⟨-, d', q', -, hpend', -⟩ := State.serveInside_cases hserve
  obtain ⟨-, hother, -, hactive⟩ := State.serveInside_frame hpend' hserve
  obtain ⟨hpend, hwait⟩ := h
  exact ⟨(hother p hne).trans hpend, hactive ▸ hwait⟩

/-- Through the turns before a SAMPLE it waits, and the turns of its port stay in the schedule. -/
theorem State.Waits.serveTurns {s : State P} {p : Port} {d : Descriptor} {q : List Descriptor} (h : s.Waits p d q)
    (l : List Turn) : (State.serveTurns l s).Waits p d q ∧ (State.serveTurns l s).schedule.count (.port p) = l.count (.port p) := by
  induction l generalizing s with
  | nil => exact ⟨h, rfl⟩
  | cons turn rest ih =>
    cases turn with
    | sample => exact ⟨h, by simp [State.serveTurns]⟩
    | port p' =>
      cases hserve : s.serveInside p' with
      | some t =>
        have hne : p' ≠ p := by
          rintro rfl
          simp [h.serveInside_eq_none] at hserve
        obtain ⟨hwaits, hcount⟩ := ih (h.of_serveInside hserve)
        simp only [State.serveTurns, hserve]
        exact ⟨hwaits, by rw [hcount, List.count_cons_of_ne (by simpa using hne)]⟩
      | none =>
        obtain ⟨⟨hpend, hwait⟩, hcount⟩ := ih h
        cases hq : s.pending p' with
        | nil =>
          have hne : p' ≠ p := by
            rintro rfl
            simp [h.1] at hq
          simp only [State.serveTurns, hserve, hq]
          exact ⟨⟨hpend, hwait⟩, by rw [hcount, List.count_cons_of_ne (by simpa using hne)]⟩
        | cons d' q' =>
          simp only [State.serveTurns, hserve, hq]
          exact ⟨⟨hpend, hwait⟩, by simp [List.count_cons, hcount]⟩

/-- Through the samples of a MIX it waits, and the turns of its port stay in the schedule. -/
theorem State.Waits.sampleSlots {s : State P} {p : Port} {d : Descriptor} {q : List Descriptor} (h : s.Waits p d q)
    (ch : Channel P) (n : Nat) : (State.sampleSlots ch n s).1.Waits p d q ∧
      (State.sampleSlots ch n s).1.schedule.count (.port p) = s.schedule.count (.port p) := by
  induction n generalizing s with
  | zero => exact ⟨h, rfl⟩
  | succ n ih =>
    obtain ⟨⟨hpend, hwait⟩, hcount⟩ := h.serveTurns s.schedule
    obtain ⟨hwaits, hcount'⟩ := ih (s := ((State.serveTurns s.schedule s).sampleStep ch).1)
      ⟨(State.pending_sampleStep ch _ p).trans hpend, hwait⟩
    exact ⟨hwaits, hcount'.trans hcount⟩

/-! ### The schedule of a given order -/

/-- The turn that orders an action. -/
def Action.turn : Action → Turn
  | .sample => .sample
  | .bus _ => .port .bus

/-- The request an action needs at the bus port. -/
def Action.request? : Action → Option Descriptor
  | .sample => none
  | .bus i => some (encode i)

/-- An order that does not end in a bus operation ends in a SAMPLE. -/
theorem one_le_count_sample {acts : List Action} (hne : acts ≠ []) (hlast : ∀ i, acts.getLast? ≠ some (.bus i)) :
    1 ≤ acts.count .sample := by
  rw [List.getLast?_eq_some_getLast hne] at hlast
  cases hx : acts.getLast hne with
  | sample => exact List.count_pos_iff.2 (hx ▸ List.getLast_mem hne)
  | bus i => exact absurd (congrArg some hx) (hlast i)

/-- A machine before a MIX of the control agent that goes through the order `acts`. -/
def State.ordered (p : Params) (g : Generator Slice) (acts : List Action) : State :=
  { State.construct p with
    gen := g
    busPort := acts.filterMap Action.request?
    schedule := acts.map Action.turn
    active := .control }

/-- A well-formed bus operation at the head of the bus port is taken inside a MIX of another port, and does its action. -/
theorem State.serveInside_bus {s : State P} {i : Instr} {q : List Descriptor} (hactive : s.active ≠ .bus)
    (hpend : s.busPort = encode i :: q) (hbus : i.isBus = true) (hwf : i.wellFormed = true) :
    ∃ t, s.serveInside .bus = some t ∧ t.params = s.params ∧ t.gen = s.gen.busAction s.params i ∧ t.busPort = q ∧
      t.active = s.active ∧ t.sampleOut = s.sampleOut ∧ t.tickOut = s.tickOut := by
  have hdec := decode_encode hwf
  obtain ⟨op, hop⟩ : ∃ op, State.busOp? (P := P) i = some op := by
    rw [← Option.isSome_iff_exists, State.busOp?_isSome, hbus]
  have hinside : State.insideOp? (P := P) (encode i) = some op := by
    simp [State.insideOp?, requestWaits_of_decode hdec, hbus, hdec, hop]
  obtain ⟨t, ht⟩ : ∃ t, s.serveInside .bus = some t := by
    simp [State.serveInside, Ne.symm hactive, State.pending, hpend, hinside]
  obtain ⟨-, d, q', r, hpend', -, -, -, -, rfl⟩ := State.serveInside_cases ht
  obtain ⟨rfl, rfl⟩ : encode i = d ∧ q = q' := by simpa using hpend.symm.trans hpend'
  exact ⟨_, ht, by simp [hdec, State.setPending]⟩

/-- With the turn of a port first, the MIX takes the request there and goes on. -/
theorem State.sampleSlots_of_served {s t : State P} {p : Port} {rest : List Turn} (hsched : s.schedule = .port p :: rest)
    (hserve : s.serveInside p = some t) (ch : Channel P) (n : Nat) :
    State.sampleSlots ch (n + 1) s = State.sampleSlots ch (n + 1) { t with schedule := rest } := by
  have hturns : State.serveTurns s.schedule s = State.serveTurns rest { t with schedule := rest } := by
    simp only [hsched, State.serveTurns, hserve, State.serveTurns_schedule]
  rw [State.sampleSlots_succ, State.sampleSlots_succ, hturns]

/-- The schedule of an order and its requests at the bus port make the samples of a MIX of another port go through that
order (R58). -/
theorem State.sampleSlots_of_actions (ch : Channel P) (acts : List Action) (s : State P) (hactive : s.active ≠ .bus)
    (hsched : s.schedule = acts.map Action.turn) (hport : s.busPort = acts.filterMap Action.request?)
    (hbus : ∀ i, Action.bus i ∈ acts → i.isBus = true ∧ i.wellFormed = true)
    (hlast : ∀ i, acts.getLast? ≠ some (.bus i)) :
    (State.sampleSlots ch (acts.count .sample) s).1.gen = (s.gen.runActions ch s.params acts).1 ∧
      (State.sampleSlots ch (acts.count .sample) s).1.sampleOut = s.sampleOut ++ (s.gen.runActions ch s.params acts).2.1 ∧
      (State.sampleSlots ch (acts.count .sample) s).1.tickOut = s.tickOut ++ (s.gen.runActions ch s.params acts).2.2 := by
  induction acts generalizing s with
  | nil => simp
  | cons act rest ih =>
    have hbus' : ∀ i, Action.bus i ∈ rest → i.isBus = true ∧ i.wellFormed = true :=
      fun i hi => hbus i (List.mem_cons_of_mem _ hi)
    have hlast' : ∀ i, rest.getLast? ≠ some (.bus i) := by
      intro i hi
      exact hlast i (by rw [List.getLast?_cons, hi]; rfl)
    cases act with
    | sample =>
      have hturns : State.serveTurns s.schedule s = { s with schedule := rest.map Action.turn } := by
        rw [hsched]
        rfl
      obtain ⟨hgen, hsample, htick⟩ := ih (({ s with schedule := rest.map Action.turn } : State P).sampleStep ch).1
        hactive rfl hport hbus' hlast'
      rw [List.count_cons_self, State.sampleSlots_succ, hturns, Generator.runActions_sample]
      exact ⟨hgen, by simpa using hsample, by simpa using htick⟩
    | bus i =>
      obtain ⟨hi, hwf⟩ := hbus i List.mem_cons_self
      obtain ⟨t, hserve, hparams, hgen, hq, hact, hso, hto⟩ := State.serveInside_bus hactive hport hi hwf
      have hpos := one_le_count_sample (List.cons_ne_nil _ _) hlast
      rw [List.count_cons_of_ne (by simp)] at hpos ⊢
      obtain ⟨n, hn⟩ := Nat.exists_eq_add_of_le' hpos
      have hrest := ih { t with schedule := rest.map Action.turn } (by simpa [hact] using hactive) rfl hq hbus' hlast'
      rw [hn, State.sampleSlots_of_served hsched hserve, ← hn, Generator.runActions_bus, ← hgen, ← hparams, ← hso, ← hto]
      exact hrest

end Sys2Proof.Machine
end

section

/-! The obligations about the order of atomic steps (20_memory.md section 3). -/

namespace Sys2Proof.Machine

/-- Settles O34: every request that a turn takes and every SAMPLE is one step of the order. -/
theorem mixIsInterleavingOfAtomicSteps : Obligations.MixIsInterleavingOfAtomicSteps := by
  intro P ch n s
  obtain ⟨order, hcount, hleads, hvs⟩ := State.sampleSlots_leads ch n.toNat s
  refine ⟨s.runMix ch n false, order, _, _, rfl, hcount, congrArg (·, _) hleads.gen, hleads.sampleOut, hleads.tickOut,
    ?_, fun p d hmem => ?_, fun p => (hleads.pending p).trans (congrArg _ (State.pending_respond _ _ p).symm)⟩
  · simp [State.runMix, hleads.results, hleads.active, hvs]
  · obtain ⟨hport, hwaits, hbus⟩ := hleads.taken p d hmem
    exact ⟨hport, hwaits, Generator.answer?_isSome hbus _ _, hbus⟩

/-- Settles O35: the schedule takes the order's turns, and the requests stand at the bus port while the MIX is the control
agent's. -/
theorem everyInterleavingIsAMix : Obligations.EveryInterleavingIsAMix := by
  intro p g acts n hcount hbus hlast
  obtain ⟨hgen, hsample, htick⟩ := State.sampleSlots_of_actions referenceChannel acts (State.ordered p g acts)
    (show Port.control ≠ Port.bus by decide) rfl rfl hbus hlast
  rw [hcount] at hgen hsample htick
  exact ⟨State.ordered p g acts, (State.ordered p g acts).runMix referenceChannel n false, rfl, rfl, rfl, rfl, rfl,
    Prod.ext hgen (Prod.ext hsample htick)⟩

/-- Settles O36: what may not be taken stays at the head of its port through every SAMPLE. -/
theorem otherRequestsWaitForMix : Obligations.OtherRequestsWaitForMix := by
  intro n s p d q hpend hwait
  have hwaits : s.Waits p d q := by
    refine ⟨hpend, hwait.imp_right ?_⟩
    rintro ⟨op, rest, rfl, hop⟩
    simpa [requestWaits, Opcode.ofByte?_code] using hop
  obtain ⟨⟨hpend', -⟩, hcount⟩ := hwaits.sampleSlots referenceChannel n.toNat
  exact ⟨s.runMix referenceChannel n false, rfl, (State.pending_respond _ _ p).trans hpend', hcount⟩

end Sys2Proof.Machine
end

section

/-! SUPPORT. The encoder writes what the decoder reads: the opcode map, the operand bytes of each format, and where a descriptor
ends in a stream (30_encoding.md rules R72 to R78). -/

namespace Sys2Proof

/-- The opcode map read backwards (R74). -/
theorem Opcode.code_of_ofByte? {b : Byte} {op : Opcode} (h : Opcode.ofByte? b = some op) : op.code = b := by
  revert b op
  decide

/-- The values with no operation (R74, R78). -/
theorem Opcode.ofByte?_eq_none_iff {b : Byte} : Opcode.ofByte? b = none ↔ b = 0 ∨ 0x0C ≤ b.toNat := by
  revert b
  decide

theorem eq_nil_of_fieldsQ {bs : List Byte} {u : Unit} (h : fieldsQ bs = some u) : bs = [] := by
  cases bs with
  | nil => rfl
  | cons => simp [fieldsQ] at h

theorem eq_bytes32_of_fieldsC {bs : List Byte} {v : U32} (h : fieldsC bs = some v) : bs = bytes32 v := by
  unfold fieldsC at h
  split at h
  · rw [← Option.some.inj h, bytes32_le32]
  · simp at h

theorem eq_bytes16_of_fieldsS {bs : List Byte} {n : U16} (h : fieldsS bs = some n) : bs = bytes16 n := by
  unfold fieldsS at h
  split at h
  · rw [← Option.some.inj h, bytes16_le16]
  · simp at h

theorem eq_append_of_fieldsR {bs : List Byte} {a : U32} {len : U16} (h : fieldsR bs = some (a, len)) :
    bs = bytes32 a ++ bytes16 len := by
  unfold fieldsR at h
  split at h
  · obtain ⟨rfl, rfl⟩ := Prod.mk.inj (Option.some.inj h)
    rw [bytes32_le32, bytes16_le16]
    rfl
  · simp at h

/-- The payload of format W is as long as its field `len` says, so it fits 16 bits (R73). -/
theorem eq_append_of_fieldsW {bs : List Byte} {a : U32} {data : List Byte} (h : fieldsW bs = some (a, data)) :
    bs = bytes32 a ++ bytes16 (BitVec.ofNat 16 data.length) ++ data ∧ data.length < 65536 := by
  unfold fieldsW at h
  split at h
  · split at h
    · rename_i hlen
      obtain ⟨rfl, rfl⟩ := Prod.mk.inj (Option.some.inj h)
      refine ⟨?_, hlen ▸ BitVec.isLt _⟩
      rw [hlen, BitVec.ofNat_toNat, BitVec.setWidth_eq, bytes32_le32, bytes16_le16]
      rfl
    · simp at h
  · simp at h

/-- Operand bytes that decode are those the encoder writes behind the opcode (R72, R73). -/
theorem encode_of_decodeOperands {op : Opcode} {bs : List Byte} {i : Instr} (h : decodeOperands op bs = some i) :
    encode i = op.code :: bs ∧ i.wellFormed = true := by
  cases op <;> simp only [decodeOperands, Option.map_eq_some_iff] at h <;> obtain ⟨f, hf, rfl⟩ := h
  case write =>
    obtain ⟨rfl, hlen⟩ := eq_append_of_fieldsW hf
    exact ⟨rfl, decide_eq_true hlen⟩
  case read =>
    obtain rfl := eq_append_of_fieldsR hf
    exact ⟨rfl, rfl⟩
  case setrate | seek =>
    obtain rfl := eq_bytes32_of_fieldsC hf
    exact ⟨rfl, rfl⟩
  case pull | mix =>
    obtain rfl := eq_bytes16_of_fieldsS hf
    exact ⟨rfl, rfl⟩
  case size | addr | start | stop | exit =>
    obtain rfl := eq_nil_of_fieldsQ hf
    exact ⟨rfl, rfl⟩

/-- A descriptor is an operation's exactly if its opcode is one's and its operand bytes are that opcode's (R76). -/
theorem decode_eq_ok_iff {d : Descriptor} {i : Instr} :
    decode d = .ok i ↔ ∃ opc bs op, d = opc :: bs ∧ Opcode.ofByte? opc = some op ∧ decodeOperands op bs = some i := by
  cases d with
  | nil => simp [decode]
  | cons opc bs =>
    cases hop : Opcode.ofByte? opc with
    | none => simp [decode, hop]
    | some op => cases hi : decodeOperands op bs <;> simp [decode, hop, hi]

/-- A descriptor is rejected for its opcode exactly if that is reserved, whatever follows (R78). -/
theorem decode_eq_reservedOpcode_iff {b : Byte} {rest : List Byte} :
    decode (b :: rest) = .error (.reservedOpcode b) ↔ Opcode.ofByte? b = none := by
  cases hop : Opcode.ofByte? b with
  | none => simp [decode, hop]
  | some op => cases hi : decodeOperands op rest <;> simp [decode, hop, hi]

/-- A byte sequence that is cut off whole wherever it stands in a stream (R75, R78). -/
def Descriptor.Framed (d : Descriptor) : Prop := d ≠ [] ∧ ∀ rest : List Byte, streamLength (d ++ rest) = d.length

/-- The length of an operation's descriptor stands in its first seven bytes (R75). -/
theorem framed_encode {i : Instr} (h : i.wellFormed = true) : Descriptor.Framed (encode i) := by
  refine ⟨List.cons_ne_nil _ _, fun rest => ?_⟩
  cases i with
  | write a data => exact (Laws.EncodeShape.write a data h).2.symm
  | _ => rfl

/-- A reserved opcode takes one byte (R78). -/
theorem framed_reserved {b : Byte} (h : Opcode.ofByte? b = none) : Descriptor.Framed [b] :=
  ⟨List.cons_ne_nil _ _, fun rest => by simp [streamLength, h]⟩

/-- A bound of at least the stream's length cuts off every descriptor. -/
theorem splitStreamUpTo_flatten {ds : List Descriptor} (hds : ∀ d ∈ ds, d.Framed) {k : Nat} (hk : ds.flatten.length ≤ k) :
    splitStreamUpTo k ds.flatten = ds := by
  induction ds generalizing k with
  | nil => cases k <;> rfl
  | cons d ds ih =>
    obtain ⟨⟨hne, hlen⟩, hrest⟩ := List.forall_mem_cons.1 hds
    obtain ⟨b, bs, rfl⟩ := List.exists_cons_of_ne_nil hne
    rw [List.flatten_cons, List.length_append, List.length_cons] at hk
    obtain ⟨k, rfl⟩ := Nat.exists_eq_add_of_le' (show 1 ≤ k by omega)
    have hcut := hlen ds.flatten
    rw [List.cons_append] at hcut
    rw [List.flatten_cons, List.cons_append, splitStreamUpTo, hcut, ← List.cons_append, List.take_left, List.drop_left,
      ih hrest (by omega)]

/-- A row's word is decoded from its bytes. -/
theorem decode_of_decodeTableWord {nbits w : Nat} {i : Instr} (h : decodeTableWord nbits w = some i) :
    decode (tableBytes nbits w) = .ok i := by
  unfold decodeTableWord at h
  split at h
  · rename_i j hj
    rw [hj, Option.some.inj h]
  · simp at h

end Sys2Proof
end

section

/-! SUPPORT. A WRITE that lies wholly in the window, and one that lies wholly in the slice of a channel (20_memory.md rules R51,
R63; 30_encoding.md rules R81, R82). -/

namespace Sys2Proof

@[simp] theorem Memory.slice_getElem (m : Memory) (c : ChannelNo) (k : Nat) (h : k < sliceLen) :
    (m.slice c)[k] = m.load (sliceLen * c.val + k) := by
  simp [Memory.slice]

end Sys2Proof

namespace Sys2Proof.Machine

/-- A WRITE that ends inside the window is applied whole: its bytes stand in the register file in order, and no other byte
changes (R51). -/
theorem exec_write_within (s : State) {a : U32} {o : Nat} {data : List Byte} (ha : a.toNat = s.params.baseAddr.val + o)
    (ho : o < sndMemoryLength) (hfit : o + data.length ≤ sndMemoryLength) :
    ∃ t : State, exec (.write a data) s = .next t ∧
      (∀ (k : Nat) (h : k < data.length), t.gen.reg.load (o + k) = data[k]) ∧
      (∀ j : Nat, j < o ∨ o + data.length ≤ j → t.gen.reg.load j = s.gen.reg.load j) := by
  obtain ⟨hinside, -⟩ := writeStoresWindowPrefix a data s
  obtain ⟨m, hexec, hin, hout⟩ := hinside o ho ha
  rw [sndMemoryLength] at hfit
  exact ⟨_, hexec, fun k hk => hin k hk (by omega), fun j hj => hout j (by omega)⟩

/-- The address of register `k` of a channel: no window wraps around the address space (R5, R81). -/
theorem chAddr_add_toNat (p : Params) (c : ChannelNo) {k : Nat} (hk : k < sliceLen) :
    (chAddr p c + BitVec.ofNat 32 k).toNat = p.baseAddr.val + (sliceLen * c.val + k) := by
  have hbase := p.baseAddr.isLt
  have hc := c.isLt
  simp only [sliceLen, nChannels] at hk hc
  simp only [chAddr, sliceLen, ← BitVec.ofNat_add, BitVec.toNat_ofNat]
  omega

/-- A WRITE from register `k` of channel `c` on that ends inside the channel's slice: its bytes stand in the slice in order, and
no other byte of the register file changes (R51, R63). -/
theorem exec_write_slice (s : State) (c : ChannelNo) {k : Nat} {data : List Byte} (hk : k < sliceLen)
    (hfit : k + data.length ≤ sliceLen) :
    ∃ t : State, exec (.write (chAddr s.params c + BitVec.ofNat 32 k) data) s = .next t ∧
      (∀ (j : Nat) (h : j < data.length), (t.gen.reg.slice c)[k + j] = data[j]) ∧
      (∀ j : Nat, j < sliceLen * c.val + k ∨ sliceLen * c.val + k + data.length ≤ j →
        t.gen.reg.load j = s.gen.reg.load j) := by
  have hc := c.isLt
  simp only [sliceLen, nChannels] at hk hfit hc
  obtain ⟨t, hexec, hin, hout⟩ := exec_write_within s (data := data) (chAddr_add_toNat s.params c hk)
    (by simp only [sliceLen, sndMemoryLength]; omega) (by simp only [sliceLen, sndMemoryLength]; omega)
  exact ⟨t, hexec, fun j hj => by rw [Memory.slice_getElem, ← Nat.add_assoc, hin j hj], hout⟩

end Sys2Proof.Machine
end

section

/-! The obligations about the encoding and the pseudo-operations (30_encoding.md). -/

namespace Sys2Proof.Machine

/-- Settles O46, by `decode_encode`. -/
theorem decodeEncode : Obligations.DecodeEncode := fun _ => decode_encode

/-- Settles O47: the opcode byte and the operand bytes are each the ones the encoder writes. -/
theorem decodedDescriptorIsTheEncoding : Obligations.DecodedDescriptorIsTheEncoding := by
  intro d i h
  obtain ⟨opc, bs, op, rfl, hop, hi⟩ := decode_eq_ok_iff.1 h
  rw [← Opcode.code_of_ofByte? hop]
  exact encode_of_decodeOperands hi

/-- Settles O50: each piece is cut off whole. -/
theorem streamSplitsAtLengths : Obligations.StreamSplitsAtLengths := by
  intro ds hds
  refine splitStreamUpTo_flatten (fun d hd => ?_) le_rfl
  obtain ⟨i, hwf, rfl⟩ | ⟨b, rfl, hb⟩ := hds d hd
  · exact framed_encode hwf
  · exact framed_reserved (Opcode.ofByte?_eq_none_iff.2 hb)

/-- Settles O48: decode gives this error exactly where the opcode map has no operation. -/
theorem reservedOpcodesAreRejected : Obligations.ReservedOpcodesAreRejected := fun _ _ =>
  decode_eq_reservedOpcode_iff.trans Opcode.ofByte?_eq_none_iff

/-- Settles O49, descriptor by descriptor. -/
theorem writtenDescriptorsDecode : Obligations.WrittenDescriptorsDecode := by
  unfold Obligations.WrittenDescriptorsDecode
  decide

/-- Settles O51: the word stands at the head of the port whose turn is next. -/
theorem fetchedWordRuns : Obligations.FetchedWordRuns := by
  intro s nbits w i h
  rw [step_eq_stepOf, exec_eq_execOf]
  exact stepOf_of_turn (p := .bus) rfl rfl (decode_of_decodeTableWord h)

/-- Settles O54: the five bytes of the payload are the registers 0 to 4 of the channel. -/
theorem chsetSetsOneChannel : Obligations.ChsetSetsOneChannel := by
  intro c f v w en s
  have hlen : (bytes16 f ++ [v, w, en]).length = 5 := rfl
  obtain ⟨t, hexec, hin, hout⟩ := exec_write_slice s c (k := 0) (data := bytes16 f ++ [v, w, en]) (by decide) (by simp)
  rw [BitVec.add_zero] at hexec
  refine ⟨t, hexec, ?_, ?_, ?_, ?_, hout⟩
  · exact (congrArg₂ le16 (hin 0 (by omega)) (hin 1 (by omega))).trans (le16_bytes16 f)
  · exact congrArg lowNibble (hin 2 (by omega))
  · exact hin 3 (by omega)
  · exact congrArg (·.getLsbD 0) (hin 4 (by omega))

/-- Settles O55: the one byte of the payload is the register CTRL of the channel. -/
theorem choffDisablesOneChannel : Obligations.ChoffDisablesOneChannel := by
  intro c s
  obtain ⟨t, hexec, hin, hout⟩ := exec_write_slice s c (k := 4) (data := [0x00#8]) (by decide) (by decide)
  have hctrl := hin 0 (by decide)
  refine ⟨t, hexec, congrArg (·.getLsbD 0) hctrl, ?_, fun j hj => hout j ?_⟩
  · rwa [Memory.slice_getElem] at hctrl
  · simp only [sliceLen, List.length_singleton]
    omega

/-- Settles O56: the payload is the 32 bytes of `WAVERAM`, whose nibbles `chOwn` reads. -/
theorem waveramPlacesOwnWaveMemory : Obligations.WaveramPlacesOwnWaveMemory := by
  intro c bytes s
  obtain ⟨t, hexec, hin, hout⟩ := exec_write_slice s c (k := 32) (data := bytes.toList) (by decide) (by simp)
  rw [Vector.length_toList] at hout
  refine ⟨t, hexec, fun i b hb => ?_, hout⟩
  obtain ⟨hi, rfl⟩ := Vector.getElem?_eq_some_iff.1 hb
  have hbyte := hin (i.val / 2) (by simpa using hi)
  rw [Vector.getElem_toList] at hbyte
  simp only [chOwn, hbyte, highNibble, lowNibble]

/-- Settles O57: WRITE16 is a WRITE of two bytes inside the window, SAVE a READ of the whole window. -/
theorem write16AndSaveCoverTheirBytes : Obligations.Write16AndSaveCoverTheirBytes := by
  refine ⟨fun a v s o ho ha => ?_, fun s => ?_⟩
  · obtain ⟨t, hexec, hin, hout⟩ := exec_write_within s (data := bytes16 v) ha (Nat.lt_of_succ_lt ho) ho
    have hlow : t.gen.reg.load o = v.extractLsb' 0 8 := hin 0 (by simp)
    have hhigh : t.gen.reg.load (o + 1) = v.extractLsb' 8 8 := hin 1 (by simp)
    have hv := v.isLt
    refine ⟨t, hexec, ?_, ?_, fun j hj hj' => hout j (by rw [bytes16_length]; omega)⟩
    · rw [hlow, BitVec.extractLsb'_toNat]
      rfl
    · rw [hhigh, BitVec.extractLsb'_toNat, Nat.shiftRight_eq_div_pow]
      omega
  · have hbase : (baseAddrWord s.params).toNat = s.params.baseAddr.val + 0 :=
      Nat.mod_eq_of_lt (Nat.lt_trans s.params.baseAddr.isLt (by decide))
    obtain ⟨hread, -⟩ := readReturnsWindowBytes (baseAddrWord s.params) (BitVec.ofNat 16 sndMemoryLength) s
    simpa [save] using hread 0 (by decide) hbase

end Sys2Proof.Machine
end

section

/-! SUPPORT. WT.CONSTRUCT and WT.AT: each entry of the generated table is the level of its nibble, and a lookup wraps
(40_wavetable.md rules R90 to R92). -/

namespace Sys2Proof

/-- The level of a nibble fits an s16 (R90). -/
theorem toInt_ofInt_level {l : Nat} (h : l < 16) : (BitVec.ofInt 16 (level l)).toInt = level l := by
  apply BitVec.toInt_ofInt_eq_self (by decide) <;> simp only [level] <;> omega

/-- The 16 levels lie symmetrically about 0 (R91). -/
theorem level_antisymmetric {l : Nat} (h : l < 16) : level (15 - l) = -level l := by
  simp only [level]
  omega

/-- A list of integers that its reversal negates has sum 0. -/
theorem sum_eq_zero_of_reverse_eq_map_neg {l : List Int} (h : l.reverse = l.map (- ·)) : l.sum = 0 := by
  have hsum : l.sum = -l.sum := calc
    l.sum = l.reverse.sum := l.sum_reverse.symm
    _ = (l.map (- ·)).sum := by rw [h]
    _ = -l.sum := l.sum_neg.symm
  omega

end Sys2Proof

namespace Sys2Proof.Machine

/-- `samples[i]` is the level of the nibble `i div 4` (R90). -/
@[simp] theorem wtConstruct_getElem_toInt (i : Nat) (h : i < wtLen) : (wtConstruct[i]).toInt = level (i / 4) := by
  rw [wtConstruct, Vector.getElem_ofFn]
  exact toInt_ofInt_level (Nat.div_lt_of_lt_mul h)

/-- Entry `63 - i` holds the negated entry `i` (R91). -/
theorem wtConstruct_antisymmetric (i : Nat) (h : i < wtLen) :
    (wtConstruct[wtLen - 1 - i]'(by omega)).toInt = -(wtConstruct[i]).toInt := by
  have hnibble : (wtLen - 1 - i) / 4 = 15 - i / 4 := by
    simp only [wtLen] at h ⊢
    omega
  rw [wtConstruct_getElem_toInt, wtConstruct_getElem_toInt, hnibble]
  exact level_antisymmetric (Nat.div_lt_of_lt_mul h)

/-- Read backwards, the table is its own negation (R91). -/
theorem wtConstruct_reverse_eq_map_neg :
    (wtConstruct.toList.map BitVec.toInt).reverse = (wtConstruct.toList.map BitVec.toInt).map (- ·) := by
  apply List.ext_getElem
  · simp
  · intro i _ hi
    have hlen : i < wtLen := by simpa using hi
    simpa using wtConstruct_antisymmetric i hlen

/-- A lookup depends on the index mod 64 only (R92). -/
theorem wtAt_mod (wt : WaveTable) (index : U16) : wtAt wt (BitVec.ofNat 16 (index.toNat % wtLen)) = wtAt wt index := by
  have hword : (BitVec.ofNat 16 (index.toNat % wtLen)).toNat % wtLen = index.toNat % wtLen := by
    simp only [BitVec.toNat_ofNat, wtLen]
    omega
  simp only [wtAt, hword]

/-- A lookup in the generated table gives the level of the nibble `(index mod 64) div 4` (R90, R92). -/
theorem wtAt_wtConstruct_toInt (index : U16) : (wtAt wtConstruct index).toInt = level (index.toNat % wtLen / 4) :=
  wtConstruct_getElem_toInt _ _

end Sys2Proof.Machine
end

section

/-! The obligations about the WaveTable (40_wavetable.md). -/

namespace Sys2Proof.Machine

/-- Settles O44: WT.AT reads the entry `index mod 64`, and the corner cases fall on the first and the last level. -/
theorem waveTableLookupWraps : Obligations.WaveTableLookupWraps := by
  refine ⟨fun wt index _ => ⟨rfl, (wtAt_mod wt index).symm⟩, ?_⟩
  simp only [wtAt_wtConstruct_toInt]
  decide

/-- Settles O45: the levels by the generation rule, the sum from the antisymmetry. -/
theorem waveTableLevels : Obligations.WaveTableLevels :=
  ⟨wtConstruct_getElem_toInt, wtConstruct_antisymmetric, sum_eq_zero_of_reverse_eq_map_neg wtConstruct_reverse_eq_map_neg⟩

end Sys2Proof.Machine
end

section

/-! SUPPORT. What SIZE and ADDR answer, said once (41_bus_ops.md rules R102, R103). -/

namespace Sys2Proof.Machine

/-- `BASE_ADDR` fits the u32 that ADDR answers, as the whole window lies below `2^32` (R5, R103). -/
theorem baseAddrWord_toNat (p : Params) : (baseAddrWord p).toNat = p.baseAddr.val := by
  have hwindow := p.baseAddr.isLt
  rw [baseAddrWord, BitVec.toNat_ofNat]
  omega

/-- SIZE completes with the length of the window as its value, and nothing else changes (R102). -/
theorem exec_size (s : State) :
    exec .size s = .next (s.respond { status := .ok, value := BitVec.ofNat 32 sndMemoryLength }) := rfl

/-- ADDR completes with `BASE_ADDR` as its value, and nothing else changes (R103). -/
theorem exec_addr (s : State) :
    exec .addr s = .next (s.respond { status := .ok, value := baseAddrWord s.params }) := rfl

end Sys2Proof.Machine
end

section

/-! The obligations about SIZE and ADDR (41_bus_ops.md). -/

namespace Sys2Proof.Machine

/-- Settles O3: the descriptor is the encoding of SIZE, and the answer is a constant. -/
theorem sizeAnswers512 : Obligations.SizeAnswers512 :=
  ⟨decode_encode (i := .size) rfl, exec_size⟩

/-- Settles O4: the descriptor is the encoding of ADDR, and the answer is `BASE_ADDR` as a u32, without a wrap. -/
theorem addrAnswersBase : Obligations.AddrAnswersBase :=
  ⟨decode_encode (i := .addr) rfl, fun s => ⟨baseAddrWord s.params, baseAddrWord_toNat s.params, exec_addr s⟩⟩

end Sys2Proof.Machine
end

section

/-! SUPPORT. What the reference channel renders, and the parts of a slice that its render reads (42_channel.md rules R114 to
R122). -/

namespace Sys2Proof

/-- `v * level[l] asr 4` is exact (R121). -/
theorem asr_level_mul (l v : Nat) : asr (level l * (v : Int)) 4 = (2 * (l : Int) - 15) * 136 * v := by
  have hsixteen : level l * (v : Int) = (2 * (l : Int) - 15) * 136 * v * 2 ^ 4 := by
    rw [level]
    ring
  rw [asr, hsixteen, Int.mul_ediv_cancel _ (by decide)]

/-- No nibble at any volume leaves the range of one channel (R122). -/
theorem scaledLevel_mem_range {l v : Nat} (hl : l < 16) (hv : v < 16) :
    -30600 ≤ (2 * (l : Int) - 15) * 136 * v ∧ (2 * (l : Int) - 15) * 136 * v ≤ 30600 := by
  constructor <;> nlinarith

/-- An s16 is not clamped (R7). -/
@[simp] theorem sat16_toInt (x : S16) : sat16 x.toInt = x := by
  have hlow := BitVec.le_toInt x
  have hhigh := BitVec.toInt_lt (x := x)
  have hclamp : clamp16 x.toInt = x.toInt := by
    simp only [clamp16]
    split_ifs <;> omega
  rw [sat16, hclamp, BitVec.ofInt_toInt]

end Sys2Proof

namespace Sys2Proof.Machine

/-- `EN` is the parity of the byte `CTRL` (R118). -/
theorem chEnabled_iff (p : Slice) : chEnabled p = true ↔ p[4].toNat % 2 = 1 := by
  simp [chEnabled, BitVec.getLsbD]

/-- The nibble that entry `i` plays with this spec's WaveTable: the channel's own one under selector 1, and otherwise the one
of the table's generation rule (R90, R117). -/
def chLevel (p : Slice) (i : Fin wtLen) : Nat :=
  if chSelector p = 0x01#8 then chOwn p i else i.val / 4

theorem chOwn_lt (p : Slice) (i : Fin wtLen) : chOwn p i < 16 := by
  simp only [chOwn, highNibble, lowNibble]
  split <;> omega

theorem chLevel_lt (p : Slice) (i : Fin wtLen) : chLevel p i < 16 := by
  unfold chLevel
  split
  · exact chOwn_lt p i
  · exact Nat.div_lt_of_lt_mul i.isLt

theorem chVolume_lt (p : Slice) : chVolume p < 16 := Nat.mod_lt _ (by decide)

/-- Both sources of the wave value are levels (R90, R121). -/
theorem chWave_wtConstruct (p : Slice) (i : Fin wtLen) : chWave wtConstruct p i = level (chLevel p i) := by
  have hentry : (BitVec.ofNat 16 i.val).toNat % wtLen = i.val := by
    have hi := i.isLt
    simp only [BitVec.toNat_ofNat, wtLen] at hi ⊢
    omega
  unfold chWave chLevel
  split
  · rfl
  · rw [wtAt_wtConstruct_toInt, hentry]

/-- An enabled channel on this spec's WaveTable (R121). -/
theorem chRender_wtConstruct {c : ChannelNo} {p : Slice} {t : U32} (h : chEnabled p = true) :
    chRender c wtConstruct p t =
      BitVec.ofInt 16 ((2 * (chLevel p (chEntry p t) : Int) - 15) * 136 * chVolume p) := by
  rw [chRender_of_enabled h, chWave_wtConstruct, asr_level_mul]

/-- Its sample is exact and in the range of one channel (R121, R122). -/
theorem chRender_wtConstruct_toInt {c : ChannelNo} {p : Slice} {t : U32} (h : chEnabled p = true) :
    (chRender c wtConstruct p t).toInt = (2 * (chLevel p (chEntry p t) : Int) - 15) * 136 * chVolume p ∧
      -30600 ≤ (chRender c wtConstruct p t).toInt ∧ (chRender c wtConstruct p t).toInt ≤ 30600 := by
  obtain ⟨hlow, hhigh⟩ := scaledLevel_mem_range (chLevel_lt p (chEntry p t)) (chVolume_lt p)
  have hexact : (chRender c wtConstruct p t).toInt =
      (2 * (chLevel p (chEntry p t) : Int) - 15) * 136 * chVolume p := by
    rw [chRender_wtConstruct h]
    exact BitVec.toInt_ofInt_eq_self (by decide) (by omega) (by omega)
  rw [hexact]
  exact ⟨rfl, hlow, hhigh⟩

/-- The own wave memory is read from the 32 bytes of `WAVERAM` alone (R119). -/
theorem chOwn_congr {p p' : Slice} (h : ∀ (k : Nat) (hk : k < sliceLen), 32 ≤ k → p'[k] = p[k]) (i : Fin wtLen) :
    chOwn p' i = chOwn p i := by
  have hi := i.isLt
  simp only [chOwn, h (32 + i.val / 2) (by simp only [wtLen, sliceLen] at hi ⊢; omega) (by omega)]

/-- The wave value is read from `WAVERAM` under selector 1, and from the WaveTable under every other selector (R117, R119). -/
theorem chWave_congr {p p' : Slice} (hsel : chSelector p' = 0x01#8 ↔ chSelector p = 0x01#8)
    (hwave : ∀ (k : Nat) (hk : k < sliceLen), 32 ≤ k → p'[k] = p[k]) (wt : WaveTable) (i : Fin wtLen) :
    chWave wt p' i = chWave wt p i := by
  simp only [chWave, hsel, chOwn_congr hwave]

/-- The table index is read from the two frequency bytes alone (R115, R121). -/
theorem chEntry_congr {p p' : Slice} (hlo : p'[0] = p[0]) (hhi : p'[1] = p[1]) (t : U32) : chEntry p' t = chEntry p t := by
  apply Fin.ext
  rw [chEntry_val, chEntry_val, hlo, hhi]

end Sys2Proof.Machine
end

section

/-! The obligations about CH_RENDER (42_channel.md sections 2 and 3). -/

namespace Sys2Proof.Machine

/-- Settles O41: a disabled channel renders 0, and an enabled one the level at its entry, scaled exactly. -/
theorem renderClosedForm : Obligations.RenderClosedForm := by
  intro c p t f i l v b hf hi hb hl hv
  cases hen : chEnabled p with
  | false =>
    have hoff : ¬ p[4].toNat % 2 = 1 := (chEnabled_iff p).not.1 (by simp [hen])
    rw [chRender_of_disabled hen, if_neg hoff]
    decide
  | true =>
    have hon := (chEnabled_iff p).1 hen
    have hentry : (chEntry p t).val = i := by rw [chEntry_val, hi, hf]
    have hlevel : chLevel p (chEntry p t) = l := by
      have hlt : i < 64 := hentry ▸ (chEntry p t).isLt
      rw [Vector.getElem?_eq_getElem (by simp only [sliceLen]; omega), Option.getD_some] at hb
      simp only [chLevel, chSelector, chOwn, highNibble, lowNibble, hentry, hl, hb]
      rfl
    rw [if_pos hon, ← hlevel, hv]
    exact chRender_wtConstruct_toInt hen

/-- Settles O42: the enable bit, the table index, the wave value and the volume are each read from the same bits. -/
theorem renderIgnoresUnusedBits : Obligations.RenderIgnoresUnusedBits := by
  intro c wt p p' t hlo hhi hvol hsel hen hwave
  have hsel' : chSelector p' = 0x01#8 ↔ chSelector p = 0x01#8 := by
    rcases hsel with hsame | ⟨hne', hne⟩
    · simp only [chSelector, hsame]
    · exact iff_of_false hne' hne
  have hvol' : chVolume p' = chVolume p := hvol
  have hen' : chEnabled p' = chEnabled p := hen
  simp only [chRender, hen', hvol', chEntry_congr hlo hhi, chWave_congr hsel' hwave]

end Sys2Proof.Machine
end

section

/-! SUPPORT. A MIX with nothing ordered between its samples, and its samples up to the next TICK (43_synthesis.md rules R134,
R135). -/

namespace Sys2Proof.Machine

variable {P : Type} (ch : Channel P)

theorem Generator.samplesRun_succ (p : Params) (n : Nat) (g : Generator P) :
    g.samplesRun ch p (n + 1) =
      (((g.sample ch).1.samplesRun ch p n).1, (g.sample ch).2 :: ((g.sample ch).1.samplesRun ch p n).2.1,
        g.slotEvents ++ ((g.sample ch).1.samplesRun ch p n).2.2) := rfl

/-- With a used-up schedule the samples of a MIX follow with nothing between them (log entry 4). -/
theorem State.sampleSlots_of_schedule_nil (n : Nat) (s : State P) (h : s.schedule = []) :
    State.sampleSlots ch n s =
      ({ s with
          gen := (s.gen.samplesRun ch s.params n).1
          sampleOut := s.sampleOut ++ (s.gen.samplesRun ch s.params n).2.1
          tickOut := s.tickOut ++ (s.gen.samplesRun ch s.params n).2.2 },
        (s.gen.samplesRun ch s.params n).2.1) := by
  induction n generalizing s with
  | zero => simp [Generator.samplesRun]
  | succ n ih =>
    have hturns : State.serveTurns s.schedule s = s := by
      rw [h, State.serveTurns, ← h]
    rw [State.sampleSlots_succ, hturns, ih (s.sampleStep ch).1 h, Generator.samplesRun_succ]
    simp [State.sampleStep, State.emitTicks, State.emitSamples]

/-- Up to the next TICK only `t` moves, and each sample is the mix of the same latch at its own `t` (R134). -/
theorem Generator.samplesRun_of_le_tickDistance (p : Params) (n : Nat) (g : Generator P) (h : n ≤ g.tickDistance) :
    g.samplesRun ch p n =
      ({ g with t := g.t + BitVec.ofNat 32 n },
        (List.range n).map fun k => sat16 (({ g with t := g.t + BitVec.ofNat 32 k } : Generator P).mixSum ch), []) := by
  induction n generalizing g with
  | zero => simp [Generator.samplesRun]
  | succ n ih =>
    have hpos : 0 < g.tickDistance := by omega
    have hdue : g.tickDue = false := by
      rw [Bool.eq_false_iff, Ne, Generator.tickDue_iff]
      omega
    have hsample : g.sample ch = ({ g with t := g.t + 1#32 }, sat16 (g.mixSum ch)) := by
      rw [Generator.sample_eq, Generator.openSlot_of_not_due ch g hdue]
    have hdist := Generator.sample_tickDistance_of_pos ch g hpos
    have hstep : ∀ k, g.t + 1#32 + BitVec.ofNat 32 k = g.t + BitVec.ofNat 32 (k + 1) := by
      intro k
      bv_omega
    rw [Generator.samplesRun_succ, ih _ (by omega), hsample, (Generator.slotEvents_eq_nil_iff g).2 hpos, List.range_succ_eq_map]
    simp [hstep, Function.comp_def]

/-- The reference channel's mix with one channel enabled is that channel's sample (R118, R134 c). -/
theorem Generator.mixSum_of_one_enabled (g : Generator Slice) (c : ChannelNo)
    (hoff : ∀ c' : ChannelNo, c' ≠ c → chEnabled g.lat[c'.val] = false) :
    g.mixSum referenceChannel = (chRender c g.samples g.lat[c.val] g.t).toInt := by
  rw [Generator.mixSum, ← Fin.sum_univ_def, Fintype.sum_eq_single c]
  · rfl
  · intro c' hc'
    exact congrArg BitVec.toInt (chRender_of_disabled (c := c') (hoff c' hc'))

end Sys2Proof.Machine
end

section

/-! The obligation about one voice of the reference channel (42_channel.md rules R113, R123; 95_test_vectors.md V-P1). -/

namespace Sys2Proof.Machine

/-- The voice of V-P1 steps through the WaveTable entry by entry: at F = 0x0400 the table index is `t mod 64` (R123). -/
theorem chRender_goldenVoice {c : ChannelNo} {p : Slice} (hlo : p[0] = 0x00) (hhi : p[1] = 0x04) (hvol : p[2] = 0x0F)
    (hsel : p[3] = 0x00) (hctrl : p[4] = 0x01) (t : U32) :
    chRender c wtConstruct p t = BitVec.ofInt 16 ((2 * ((t.toNat % 64 / 4 : Nat) : Int) - 15) * 2040) := by
  have hen : chEnabled p = true := by
    rw [chEnabled, hctrl]
    decide
  have hvolume : chVolume p = 15 := by
    rw [chVolume, hvol]
    decide
  have hselector : chSelector p ≠ 0x01#8 := by
    rw [chSelector, hsel]
    decide
  have hentry : (chEntry p t).val = t.toNat % 64 := by
    have hfreq : (0x00 : Byte).toNat + 256 * (0x04 : Byte).toNat = 1024 := by decide
    rw [chEntry_val, hlo, hhi, hfreq]
    omega
  rw [chRender_wtConstruct hen, chLevel, if_neg hselector, hentry, hvolume]
  congr 1
  ring

/-- Settles O43: nothing but `t` moves before the TICK, the other seven channels are silent, and the voice sounds at each `t` as
`chRender_goldenVoice` says. -/
theorem singleVoiceGoldenBuffer : Obligations.SingleVoiceGoldenBuffer := by
  intro n s golden hsched hsamples hn hlo hhi hvol hsel hctrl hoff hgolden
  have hsample : ∀ k : Nat,
      sat16 (({ s.gen with t := s.gen.t + BitVec.ofNat 32 k } : Generator Slice).mixSum referenceChannel) =
        BitVec.ofInt 16 ((2 * ((((s.gen.t.toNat + k) % 64) / 4 : Nat) : Int) - 15) * 2040) := by
    intro k
    have ht : (s.gen.t + BitVec.ofNat 32 k).toNat % 64 = (s.gen.t.toNat + k) % 64 := by
      simp only [BitVec.toNat_add, BitVec.toNat_ofNat]
      omega
    have hvoice := Generator.mixSum_of_one_enabled { s.gen with t := s.gen.t + BitVec.ofNat 32 k } 0 hoff
    rw [hvoice, sat16_toInt, hsamples, ← ht]
    exact chRender_goldenVoice hlo hhi hvol hsel hctrl _
  have hrun := Generator.samplesRun_of_le_tickDistance referenceChannel s.params n.toNat s.gen hn
  simp only [hsample, ← hgolden] at hrun
  have hmix : exec (.mix n) s = .next (s.runMix referenceChannel n false) := rfl
  rw [hmix, State.runMix, State.sampleSlots_of_schedule_nil referenceChannel n.toNat s hsched, hrun]
  simp [State.respond]

end Sys2Proof.Machine
end

section

/-! SUPPORT. CALCNEXT, the TICK of a sample slot and the mix of a SAMPLE (43_synthesis.md rules R131 to R136). -/

namespace Sys2Proof

/-- `sat16` clamps once (R7, R136). -/
theorem toInt_sat16 (x : Int) : (sat16 x).toInt = clamp16 x := by
  have hrange : -32768 ≤ clamp16 x ∧ clamp16 x < 32768 := by
    simp only [clamp16]
    split_ifs <;> omega
  exact BitVec.toInt_ofInt_eq_self (by decide) hrange.1 hrange.2

end Sys2Proof

namespace Sys2Proof.Machine

variable {P : Type} (ch : Channel P) (g : Generator P)

theorem Generator.tickDue_of_ne {g : Generator P} (h : g.t ≠ g.nextTick) : g.tickDue = false := by
  simp [Generator.tickDue, h]

theorem Generator.openSlot_eq_ite : g.openSlot ch = if g.t = g.nextTick then g.tick ch else g := by
  split
  · exact Generator.openSlot_of_due ch g (Generator.tickDue_of_eq ‹_›)
  · exact Generator.openSlot_of_not_due ch g (Generator.tickDue_of_ne ‹_›)

/-- A slot with a TICK has its event, with the `t` of the tick (R133). -/
theorem Generator.slotEvents_of_due {g : Generator P} (h : g.tickDue = true) : g.slotEvents = [g.t] := by
  simp [Generator.slotEvents, h]

theorem Generator.slotEvents_of_not_due {g : Generator P} (h : g.tickDue = false) : g.slotEvents = [] := by
  simp [Generator.slotEvents, h]

/-- TICK writes the latch and `nextTick` and nothing else (R133). -/
theorem Generator.tick_frame : g.tick ch = { g with lat := (g.tick ch).lat, nextTick := g.t + g.tickPeriod } := rfl

/-- With a period of at least 1, CALCNEXT does not schedule the slot it is performed in (R131). -/
theorem Generator.calcNext_nextTick_ne (h : 1 ≤ g.tickPeriod.toNat) : g.calcNext.nextTick ≠ g.t := by
  rw [Generator.calcNext_nextTick]
  bv_omega

/-- In a slot without a TICK SAMPLE leaves the latch as it is (R25). -/
theorem Generator.sample_lat_of_not_due (h : g.tickDue = false) : (g.sample ch).1.lat = g.lat := by
  rw [Generator.sample_eq, Generator.openSlot_of_not_due ch g h]

/-- The mix is a sum over the channels (R134 c). -/
theorem Generator.mixSum_eq_sum :
    g.mixSum ch = ∑ c : ChannelNo, (ch.render c g.samples (g.lat[c.val]) g.t).toInt :=
  (Fin.sum_univ_def _).symm

/-- Eight s16 add up without leaving 19 bits (R136). -/
theorem Generator.mixSum_mem_range : -262144 ≤ g.mixSum ch ∧ g.mixSum ch ≤ 262136 := by
  have hlow : ∀ x : S16, -32768 ≤ x.toInt := fun _ => BitVec.le_toInt _
  have hhigh : ∀ x : S16, x.toInt ≤ 32767 := fun _ => Int.le_of_lt_add_one BitVec.toInt_lt
  rw [Generator.mixSum_eq_sum]
  constructor
  · calc (-262144 : Int) = ∑ _c : ChannelNo, (-32768 : Int) := by simp
      _ ≤ _ := Finset.sum_le_sum fun _ _ => hlow _
  · calc _ ≤ ∑ _c : ChannelNo, (32767 : Int) := Finset.sum_le_sum fun _ _ => hhigh _
      _ = 262136 := by simp

end Sys2Proof.Machine
end

section

/-! The obligations about SETRATE, CALCNEXT, TICK and SAMPLE (43_synthesis.md sections 1 to 4). -/

namespace Sys2Proof.Machine

/-- Settles O12: both periods are `tickPeriodOf`, which neither wraps nor is 0. -/
theorem setrateDerivesTickPeriod : Obligations.SetrateDerivesTickPeriod :=
  ⟨fun hz => decode_encode (i := .setrate hz) rfl, fun _ => rfl,
    fun hz s hne => ⟨tickPeriodOf s.params.sampleRate hz.toNat, tickPeriodOf_toNat _ _, if_neg hne⟩,
    fun _ _ => tickPeriodOf_toNat _ _⟩

/-- Settles O13: the sum modulo 2^32 moves `t` by a period that is neither 0 nor 2^32. -/
theorem calcNextAddsPeriod : Obligations.CalcNextAddsPeriod := by
  intro P g
  refine ⟨?_, Generator.calcNext_nextTick_ne g⟩
  rw [BitVec.ofNat_add, BitVec.ofNat_toNat, BitVec.ofNat_toNat, BitVec.setWidth_eq, BitVec.setWidth_eq]
  rfl

/-- Settles O14: a due slot latches the registers and has its event, any other slot keeps the latch and has none. -/
theorem tickLatchesAllChannels : Obligations.TickLatchesAllChannels := by
  refine ⟨fun P ch g => ⟨Generator.tick_latched ch g, Generator.tick_frame ch g⟩, fun s => ⟨fun hdue => ?_, fun hnot => ?_⟩⟩
  · rw [State.sampleStep_tickOut, Generator.slotEvents_of_due (Generator.tickDue_of_eq hdue), State.sampleStep_gen]
    refine ⟨rfl, fun c k hk => ?_⟩
    have hlatched : (s.gen.sample referenceChannel).1.lat[c.val] = (s.gen.sample referenceChannel).1.reg.slice c :=
      Generator.sample_latched_of_due referenceChannel s.gen hdue c
    rw [hlatched, Memory.slice_getElem, Generator.sample_reg]
  · have hquiet := Generator.tickDue_of_ne hnot
    rw [State.sampleStep_tickOut, Generator.slotEvents_of_not_due hquiet, State.sampleStep_gen,
      Generator.sample_lat_of_not_due _ _ hquiet]
    exact ⟨List.append_nil _, rfl⟩

/-- Settles O15: the slot is the opened one, its `t` is that before it, and `sat16` clamps the sum. -/
theorem sampleSumsAndSaturates : Obligations.SampleSumsAndSaturates := by
  intro P ch g slot acc hslot hacc
  rw [← Generator.openSlot_eq_ite] at hslot
  rw [← Generator.mixSum_eq_sum] at hacc
  rw [Generator.sample_eq, ← hslot, ← hacc]
  exact ⟨rfl, toInt_sat16 acc⟩

/-- Settles O16: each of the eight amplitudes is an s16. -/
theorem mixSumFitsNineteenBits : Obligations.MixSumFitsNineteenBits := fun _ => Generator.mixSum_mem_range

end Sys2Proof.Machine
end

section

/-! SUPPORT. What the samples of a MIX do to `t` and to the register file, and where their ticks fall (43_synthesis.md rules R135,
R137). -/

namespace Sys2Proof.Machine

variable {P : Type} (ch : Channel P)

/-- Each SAMPLE advances `t` by one, and no bus operation moves it (R134, R56). -/
theorem Generator.runActions_t (p : Params) (acts : List Action) (g : Generator P) :
    (g.runActions ch p acts).1.t = g.t + BitVec.ofNat 32 (acts.count .sample) := by
  induction acts generalizing g with
  | nil => simp
  | cons act acts ih =>
    cases act with
    | bus i =>
      rw [Generator.runActions_bus, ih, Generator.busAction_t, List.count_cons_of_ne (by simp)]
    | sample =>
      rw [Generator.runActions_sample, ih, Generator.sample_t, List.count_cons_self]
      bv_omega

/-- SAMPLEs alone leave the register file as it is (R20). -/
theorem Generator.samplesRun_reg (p : Params) (n : Nat) (g : Generator P) : (g.samplesRun ch p n).1.reg = g.reg :=
  Generator.runActions_keeps_of_mem ch g p (R := fun x => x.reg = g.reg) _ (by simp)
    (fun hi => absurd (List.eq_of_mem_replicate hi) (by simp)) rfl

/-- How many ticks fall into `n` samples, with the next one at distance `d` (R137). -/
def tickCount (n d period : Nat) : Nat := if n ≤ d then 0 else 1 + (n - d - 1) / period

/-- The times of these ticks, from `t` on (R137). -/
def tickTimes (t : U32) (n d period : Nat) : List U32 :=
  (List.range (tickCount n d period)).map fun j => t + BitVec.ofNat 32 (d + j * period)

/-- Behind a tick every full period has one (R137). -/
theorem tickCount_of_just_ticked (n : Nat) {period : Nat} (hper : 1 ≤ period) :
    tickCount n (period - 1) period = n / period := by
  unfold tickCount
  split_ifs with h
  · exact (Nat.div_eq_of_lt (by omega)).symm
  · have hsub : n - (period - 1) - 1 = n - period := by omega
    rw [hsub, Nat.add_comm, ← Nat.div_eq_sub_div hper (by omega)]

/-- A slot before the tick only brings it nearer. -/
theorem tickTimes_succ_of_pos (t : U32) (n : Nat) {d : Nat} (hd : 0 < d) (period : Nat) :
    tickTimes t (n + 1) d period = tickTimes (t + 1#32) n (d - 1) period := by
  have hcount : tickCount (n + 1) d period = tickCount n (d - 1) period := by
    have hsub : n + 1 - d - 1 = n - (d - 1) - 1 := by omega
    simp only [tickCount, hsub, Nat.le_sub_one_iff_lt hd, Nat.lt_iff_add_one_le]
  have htime : ∀ k, t + BitVec.ofNat 32 (d + k) = t + 1#32 + BitVec.ofNat 32 (d - 1 + k) := by
    intro k
    have hone : d + k = 1 + (d - 1 + k) := by omega
    rw [hone, BitVec.ofNat_add, BitVec.add_assoc]
  simp only [tickTimes, hcount, htime]

/-- The slot of a tick has its time, and the next tick is a period away. -/
theorem tickTimes_succ_of_zero (t : U32) (n : Nat) {period : Nat} (hper : 1 ≤ period) :
    tickTimes t (n + 1) 0 period = t :: tickTimes (t + 1#32) n (period - 1) period := by
  have hcount : tickCount (n + 1) 0 period = tickCount n (period - 1) period + 1 := by
    rw [tickCount_of_just_ticked n hper]
    simp [tickCount, Nat.add_comm]
  have htime : ∀ j, t + BitVec.ofNat 32 (0 + (j + 1) * period) = t + 1#32 + BitVec.ofNat 32 (period - 1 + j * period) := by
    intro j
    have hone : 0 + (j + 1) * period = 1 + (period - 1 + j * period) := by
      rw [Nat.succ_mul]
      omega
    rw [hone, BitVec.ofNat_add, BitVec.add_assoc]
  simp [tickTimes, hcount, List.range_succ_eq_map, ← htime]

/-- The events of any order of atomic steps are the ticks of its SAMPLEs (R137, R139). -/
theorem Generator.runActions_tickTimes (p : Params) (acts : List Action) (g : Generator P)
    (hper : 1 ≤ g.tickPeriod.toNat) :
    (g.runActions ch p acts).2.2 = tickTimes g.t (acts.count .sample) g.tickDistance g.tickPeriod.toNat := by
  induction acts generalizing g with
  | nil => simp [tickTimes, tickCount]
  | cons act acts ih =>
    cases act with
    | bus i =>
      rw [Generator.runActions_bus, ih _ (by simpa using hper), List.count_cons_of_ne (by simp)]
      simp
    | sample =>
      rw [Generator.runActions_sample, ih _ (by simpa using hper), List.count_cons_self, Generator.sample_t,
        Generator.sample_tickPeriod]
      rcases Nat.eq_zero_or_pos g.tickDistance with hzero | hpos
      · rw [Generator.slotEvents_of_due ((Generator.tickDue_iff g).2 hzero),
          Generator.sample_tickDistance_of_zero ch g hzero hper, hzero, tickTimes_succ_of_zero _ _ hper]
        rfl
      · rw [(Generator.slotEvents_eq_nil_iff g).2 hpos, Generator.sample_tickDistance_of_pos ch g hpos,
          tickTimes_succ_of_pos _ _ hpos]
        rfl

end Sys2Proof.Machine
end

section

/-! SUPPORT. A MIX cut into two, and what nothing inside a MIX looks at: the results so far and the lifecycle bits (43_synthesis.md
rule R135, 44_stream_ops.md rule R155). -/

namespace Sys2Proof.Machine

variable {P : Type} (ch : Channel P) (earlier : List Response) (playing released : Bool)

/-- The samples of a MIX are those of its first part and then those of its second (R135). -/
theorem State.sampleSlots_add (a b : Nat) (s : State P) :
    State.sampleSlots ch (a + b) s =
      ((State.sampleSlots ch b (State.sampleSlots ch a s).1).1,
        (State.sampleSlots ch a s).2 ++ (State.sampleSlots ch b (State.sampleSlots ch a s).1).2) := by
  induction a generalizing s with
  | zero => simp
  | succ a ih => rw [Nat.succ_add, State.sampleSlots_succ, State.sampleSlots_succ, ih]; rfl

/-- The generator with its lifecycle bits replaced. -/
def Generator.withLifecycle (g : Generator P) (playing released : Bool) : Generator P :=
  { g with playing := playing, released := released }

/-- The machine with `earlier` before its results and its lifecycle bits replaced. -/
def State.recast (s : State P) (earlier : List Response) (playing released : Bool) : State P :=
  { s with gen := s.gen.withLifecycle playing released, results := earlier ++ s.results }

/-- SAMPLE neither reads nor writes the lifecycle (R155). -/
theorem Generator.sample_withLifecycle (g : Generator P) :
    (g.withLifecycle playing released).sample ch =
      ((g.sample ch).1.withLifecycle playing released, (g.sample ch).2) := by
  have hopen : (g.withLifecycle playing released).openSlot ch = (g.openSlot ch).withLifecycle playing released := by
    cases hdue : g.tickDue with
    | true =>
      rw [Generator.openSlot_of_due ch g hdue, Generator.openSlot_of_due ch (g.withLifecycle playing released) hdue]
      rfl
    | false =>
      rw [Generator.openSlot_of_not_due ch g hdue,
        Generator.openSlot_of_not_due ch (g.withLifecycle playing released) hdue]
  rw [Generator.sample_eq, Generator.sample_eq, hopen]
  rfl

/-- MemWrite neither reads nor writes the lifecycle (R51). -/
theorem Generator.memWrite_withLifecycle (p : Params) (a : U32) (v : List Byte) (g : Generator P) :
    (g.withLifecycle playing released).memWrite p a v =
      ((g.memWrite p a v).1.withLifecycle playing released, (g.memWrite p a v).2) := by
  cases hw : windowOffset p a with
  | none => simp only [Generator.memWrite_outside _ v hw]
  | some o => simp only [Generator.memWrite_inside _ v hw]; rfl

/-- A bus operation neither reads nor writes the lifecycle (R56). -/
theorem Generator.busAction_withLifecycle (p : Params) (i : Instr) (g : Generator P) :
    (g.withLifecycle playing released).busAction p i = (g.busAction p i).withLifecycle playing released := by
  cases i with
  | write a data => exact congrArg Prod.fst (Generator.memWrite_withLifecycle playing released p a data g)
  | _ => rfl

/-- No answer of a bus operation depends on the lifecycle (R100 to R103). -/
theorem Generator.answer?_withLifecycle (p : Params) (d : Descriptor) (g : Generator P) :
    (g.withLifecycle playing released).answer? p d = g.answer? p d := by
  unfold Generator.answer?
  cases decode d with
  | error e => rfl
  | ok i =>
    cases i with
    | write a data => simp only [Generator.memWrite_withLifecycle]
    | _ => rfl

theorem State.sampleStep_recast (s : State P) :
    (s.recast earlier playing released).sampleStep ch =
      ((s.sampleStep ch).1.recast earlier playing released, (s.sampleStep ch).2) := by
  simp only [State.sampleStep, State.recast, Generator.sample_withLifecycle]
  rfl

theorem State.pending_recast (s : State P) (p : Port) : (s.recast earlier playing released).pending p = s.pending p :=
  State.pending_congr rfl rfl rfl p

/-- A request ordered inside a MIX does and answers the same. -/
theorem State.insideOp_recast {d : Descriptor} {op : State P → State P} (h : State.insideOp? d = some op) (s : State P) :
    op (s.recast earlier playing released) = (op s).recast earlier playing released := by
  obtain ⟨-, -, hs⟩ := State.insideOp_spec h
  obtain ⟨r, -, ha, he⟩ := hs s
  obtain ⟨r', -, ha', he'⟩ := hs (s.recast earlier playing released)
  obtain rfl : r' = r := by
    rw [State.recast, Generator.answer?_withLifecycle] at ha'
    exact Option.some.inj (ha'.symm.trans ha)
  rw [he, he']
  cases decode d <;> simp [State.recast, Generator.busAction_withLifecycle]

/-- Inside a MIX the same requests are taken. -/
theorem State.serveInside_recast (p : Port) (s : State P) :
    (s.recast earlier playing released).serveInside p =
      (s.serveInside p).map fun t => t.recast earlier playing released := by
  unfold State.serveInside
  rw [State.pending_recast]
  split
  · rw [if_pos ‹_›]; rfl
  · rw [if_neg ‹_›]
    split
    · rfl
    · rename_i d q _
      split
      · rfl
      · rename_i op hop
        have hset : ({ (s.recast earlier playing released).setPending p q with active := p } : State P) =
            ({ s.setPending p q with active := p } : State P).recast earlier playing released := by cases p <;> rfl
        rw [hset, State.insideOp_recast _ _ _ hop]
        rfl

/-- The turns before a SAMPLE take the same requests and leave the same schedule. -/
theorem State.serveTurns_recast (l : List Turn) (s : State P) :
    State.serveTurns l (s.recast earlier playing released) =
      (State.serveTurns l s).recast earlier playing released := by
  induction l generalizing s with
  | nil => rfl
  | cons turn rest ih =>
    cases turn with
    | sample => rfl
    | port p =>
      simp only [State.serveTurns, State.serveInside_recast, State.pending_recast]
      cases s.serveInside p with
      | some s' => exact ih s'
      | none =>
        cases s.pending p with
        | nil => exact ih s
        | cons d q => simp only [Option.map_none, ih]; rfl

/-- The samples of a MIX are the same, and so is everything else they do. -/
theorem State.sampleSlots_recast (n : Nat) (s : State P) :
    State.sampleSlots ch n (s.recast earlier playing released) =
      ((State.sampleSlots ch n s).1.recast earlier playing released, (State.sampleSlots ch n s).2) := by
  induction n generalizing s with
  | zero => rfl
  | succ n ih =>
    have hturns : State.serveTurns (s.recast earlier playing released).schedule (s.recast earlier playing released) = _ :=
      State.serveTurns_recast earlier playing released s.schedule s
    simp only [State.sampleSlots, hturns, State.sampleStep_recast, ih]

/-- A result that goes out before the samples of a MIX stands before theirs, and changes nothing else. -/
theorem State.sampleSlots_respond (r : Result) (n : Nat) (s : State P) :
    ∃ (t : State P) (vs : List S16),
      State.sampleSlots ch n s = (t.recast s.results s.gen.playing s.gen.released, vs) ∧
      State.sampleSlots ch n (s.respond r) = (t.recast (s.respond r).results s.gen.playing s.gen.released, vs) := by
  have hs : s = ({ s with results := [] } : State P).recast s.results s.gen.playing s.gen.released := by
    simp [State.recast, Generator.withLifecycle]
  have hr : s.respond r =
      ({ s with results := [] } : State P).recast (s.respond r).results s.gen.playing s.gen.released := by
    simp [State.recast, Generator.withLifecycle, State.respond]
  refine ⟨(State.sampleSlots ch n { s with results := [] }).1, (State.sampleSlots ch n { s with results := [] }).2, ?_, ?_⟩
  · rw [← State.sampleSlots_recast, ← hs]
  · rw [← State.sampleSlots_recast, ← hr]

end Sys2Proof.Machine
end

section

/-! The obligations about MIX (43_synthesis.md sections 3 and 4). -/

namespace Sys2Proof.Machine

/-- Settles O17: a MIX does what an order of atomic steps with `n` SAMPLEs does, and every SAMPLE gives one sample and moves `t` by
one. -/
theorem mixProducesNSamples : Obligations.MixProducesNSamples := by
  intro n s
  obtain ⟨acts, rs, hcount, hrun, hout, hres, hrs, hparams, hactive⟩ := State.sampleSlots_spec referenceChannel n.toNat s
  simp only [Prod.mk.injEq] at hrun
  obtain ⟨hgen, hvs, -⟩ := hrun
  obtain ⟨-, -, hsamples, hperiod, hplay, hrel⟩ := State.runMix_frame referenceChannel n false s
  refine ⟨s.runMix referenceChannel n false, (State.sampleSlots referenceChannel n.toNat s).2, rs, rfl, ?_, hout, ?_, hrs, ?_,
    hsamples, hperiod, hplay, hrel, hparams, hactive⟩
  · rw [hvs, Generator.runActions_samples_length, hcount]
  · simp only [State.runMix, State.respond_results, hres, hactive]
  · rw [← hcount, ← Generator.runActions_t referenceChannel s.params acts, ← hgen]
    rfl

/-- Settles O18: the machine by `State.sampleSlots_of_schedule_nil`, and no SAMPLE writes the register file. -/
theorem mixWithoutInterleaving : Obligations.MixWithoutInterleaving := by
  intro n s hsched
  refine ⟨?_, Generator.samplesRun_reg referenceChannel s.params n.toNat s.gen⟩
  have hmix : exec (.mix n) s = .next (s.runMix referenceChannel n false) := rfl
  rw [hmix, State.runMix, State.sampleSlots_of_schedule_nil referenceChannel n.toNat s hsched]
  rfl

/-- Settles O19: between the two MIXes stands one result, which the second one does not look at. -/
theorem mixBoundariesInvisible : Obligations.MixBoundariesInvisible := by
  intro a b s hab
  have hsum : (a + b).toNat = a.toNat + b.toNat := by
    rw [BitVec.toNat_add, Nat.mod_eq_of_lt (by omega)]
  obtain ⟨w, vs, hwhole, hsecond⟩ := State.sampleSlots_respond referenceChannel
    { status := .ok, count := a, samples := (State.sampleSlots referenceChannel a.toNat s).2 } b.toNat
    (State.sampleSlots referenceChannel a.toNat s).1
  refine ⟨s.runMix referenceChannel a false, (s.runMix referenceChannel a false).runMix referenceChannel b false,
    s.runMix referenceChannel (a + b) false, rfl, rfl, rfl, ?_⟩
  have hu : (s.runMix referenceChannel a false).runMix referenceChannel b false = _ :=
    congrArg (fun r : State × List S16 => r.1.respond { status := .ok, count := b, samples := r.2 }) hsecond
  rw [hu, State.runMix, hsum, State.sampleSlots_add, hwhole]
  exact ⟨rfl, rfl, rfl, rfl, State.pending_congr rfl rfl rfl⟩

/-- Settles O20: the samples go the same way, with the lifecycle bits carried along. -/
theorem mixIgnoresLifecycle : Obligations.MixIgnoresLifecycle := by
  intro n s playing released
  have hmix : exec (.mix n) { s with gen := { s.gen with playing := playing, released := released } } =
      .next ((s.recast [] playing released).runMix referenceChannel n false) := rfl
  refine ⟨s.runMix referenceChannel n false, rfl, ?_⟩
  rw [hmix, State.runMix, State.sampleSlots_recast]
  rfl

/-- Settles O21: a MIX has the events of an order of atomic steps with `n` SAMPLEs. -/
theorem mixTickSchedule : Obligations.MixTickSchedule := by
  rintro n s d period rfl rfl hper
  obtain ⟨acts, hcount, -, htick, -⟩ := State.runMix_run referenceChannel n false s
  refine ⟨s.runMix referenceChannel n false, rfl, ?_⟩
  rw [htick, Generator.runActions_tickTimes referenceChannel s.params acts s.gen hper, hcount]
  rfl

end Sys2Proof.Machine
end

section

/-! SUPPORT. Every operation and every step gives a next state, and only adds to the observations (60_exceptions.md rule R170). -/

namespace Sys2Proof.Machine

variable {P : Type} {ch : Channel P} {s t : State P} {i : Instr}

/-- No operation faults or is refused (R140, R170). -/
theorem execOf_total (ch : Channel P) (i : Instr) (s : State P) : ∃ t, execOf ch i s = .next t := by
  cases i with
  | write | read | size | addr | stop | exit | seek | mix => exact ⟨_, rfl⟩
  | start =>
    simp only [execOf, execStart]
    split <;> exact ⟨_, rfl⟩
  | setrate =>
    simp only [execOf, execSetrate]
    split <;> exact ⟨_, rfl⟩
  | pull =>
    simp only [execOf, execPullOf]
    split <;> exact ⟨_, rfl⟩

/-- No step faults or is refused (R140, R170). -/
theorem stepOf_total (ch : Channel P) (s : State P) : ∃ t, stepOf ch s = .next t := by
  unfold stepOf State.serveNext
  split
  · exact ⟨_, rfl⟩
  · split
    · exact execOf_total ch _ _
    · exact ⟨_, rfl⟩

/-- `t` has the observations of `s` and maybe more, with the construction parameters and the WaveTable of `s` (R33). -/
structure State.Extends (s t : State P) : Prop where
  results : s.results <+: t.results
  sampleOut : s.sampleOut <+: t.sampleOut
  tickOut : s.tickOut <+: t.tickOut
  params : t.params = s.params
  samples : t.gen.samples = s.gen.samples

theorem State.Extends.refl (s : State P) : s.Extends s :=
  ⟨List.prefix_rfl, List.prefix_rfl, List.prefix_rfl, rfl, rfl⟩

theorem State.Extends.trans {u : State P} (h : s.Extends t) (h' : t.Extends u) : s.Extends u :=
  ⟨h.results.trans h'.results, h.sampleOut.trans h'.sampleOut, h.tickOut.trans h'.tickOut, h'.params.trans h.params,
    h'.samples.trans h.samples⟩

/-- Taking a request from a port observes nothing. -/
theorem State.extends_taken (s : State P) (sched : List Turn) (p : Port) (q : List Descriptor) :
    s.Extends { ({ s with schedule := sched } : State P).setPending p q with active := p } :=
  ⟨by simp, by simp, by simp, by simp, by simp⟩

/-- A result comes behind those before it. -/
theorem State.extends_respond (s : State P) (r : Result) : s.Extends (s.respond r) :=
  ⟨List.prefix_append _ _, List.prefix_rfl, List.prefix_rfl, rfl, rfl⟩

/-- The samples of a MIX and its result come behind what was observed before. -/
theorem State.extends_runMix (ch : Channel P) (n : U16) (more : Bool) (s : State P) : s.Extends (s.runMix ch n more) := by
  obtain ⟨acts, rs, -, hrun, hout, hres, -⟩ := State.sampleSlots_spec ch n.toNat s
  simp only [Prod.mk.injEq] at hrun
  obtain ⟨-, -, htick⟩ := hrun
  obtain ⟨hparams, -, hsamples, -⟩ := State.runMix_frame ch n more s
  have hslots : s.Extends (State.sampleSlots ch n.toNat s).1 :=
    ⟨⟨rs, hres.symm⟩, ⟨_, hout.symm⟩, ⟨_, htick.symm⟩, hparams, hsamples⟩
  exact hslots.trans (State.extends_respond _ _)

/-- Every operation only adds to the observations. -/
theorem execOf_extends (h : execOf ch i s = .next t) : s.Extends t := by
  cases execOf_cases h with
  | bus | seek | setrateZero | setrate | startReleased | start | stop | exit | silence =>
    exact ⟨by simp, by simp, by simp, by simp, by simp⟩
  | pull n => exact State.extends_runMix ch n true s
  | mix n => exact State.extends_runMix ch n false s

/-- Every step only adds to the observations. -/
theorem stepOf_extends (h : stepOf ch s = .next t) : s.Extends t := by
  obtain rfl | ⟨p, d, q, sched, s0, -, rfl, ⟨i, -, hexec⟩ | ⟨e, -, rfl⟩⟩ := stepOf_cases h
  · exact State.Extends.refl t
  · exact (State.extends_taken s sched p q).trans (execOf_extends hexec)
  · exact (State.extends_taken s sched p q).trans (State.extends_respond _ _)

end Sys2Proof.Machine
end

section

/-! The obligation about every step (43_synthesis.md section 5). -/

namespace Sys2Proof.Machine

/-- Settles O33: a step has a next state, and whichever it is extends the one before. -/
theorem stepAlwaysAnswers : Obligations.StepAlwaysAnswers := by
  intro s
  obtain ⟨t, hstep⟩ := stepOf_total referenceChannel s
  obtain ⟨hres, hout, htick, hparams, hsamples⟩ := stepOf_extends hstep
  exact ⟨t, (step_eq_stepOf s).trans hstep, hres, hout, htick, hparams, hsamples⟩

end Sys2Proof.Machine
end

section

/-! SUPPORT. What the stream and lifecycle operations answer, said once (44_stream_ops.md rules R150 to R154), and what they and
every step do to the lifecycle (rules R155, R156). -/

namespace Sys2Proof.Machine

variable {P : Type} {ch : Channel P}

/-- START after EXIT is rejected (R152). -/
theorem exec_start_of_released {s : State} (h : s.gen.released = true) : exec .start s = .next (s.reject .errReleased) := by
  simp only [exec, execStart, h, if_true]

/-- START before EXIT sets `playing` (R152). -/
theorem exec_start_of_not_released {s : State} (h : s.gen.released = false) :
    exec .start s = .next ({ s with gen := { s.gen with playing := true } }.respond { status := .ok }) := by
  simp only [exec, execStart, h, Bool.false_eq_true, if_false]

/-- STOP clears `playing` (R153). -/
theorem exec_stop (s : State) :
    exec .stop s = .next ({ s with gen := { s.gen with playing := false } }.respond { status := .ok }) := rfl

/-- EXIT clears `playing` and sets `released` (R154). -/
theorem exec_exit (s : State) :
    exec .exit s = .next ({ s with gen := { s.gen with playing := false, released := true } }.respond { status := .ok }) := rfl

/-- SEEK is rejected, whatever its time is (R151). -/
theorem exec_seek (time : U32) (s : State) : exec (.seek time) s = .next (s.reject .errUnsupported) := rfl

/-- A PULL that finds the generator playing runs the body of MIX (R150). -/
theorem exec_pull_of_playing (n : U16) {s : State} (h : s.gen.playing = true) :
    exec (.pull n) s = .next (s.runMix referenceChannel n true) := by
  simp only [exec, execPull, execPullOf, h, if_true]

/-- A PULL that does not find it playing gives silence and signals stream end (R150). -/
theorem exec_pull_of_not_playing (n : U16) {s : State} (h : s.gen.playing = false) :
    exec (.pull n) s = .next ((s.emitSamples (List.replicate n.toNat 0#16)).respond
      { status := .ok, count := n, samples := List.replicate n.toNat 0#16, more := false }) := by
  simp only [exec, execPull, execPullOf, h, Bool.false_eq_true, if_false]

/-- MIX gives one sample per SAMPLE (R135). -/
@[simp] theorem State.sampleSlots_length (ch : Channel P) (n : Nat) (s : State P) :
    (State.sampleSlots ch n s).2.length = n := by
  induction n generalizing s with
  | zero => rfl
  | succ n ih => rw [State.sampleSlots_succ, List.length_cons, ih]

/-- The port being served is again that of the MIX after its samples (R58). -/
@[simp] theorem State.sampleSlots_active (ch : Channel P) (n : Nat) (s : State P) :
    (State.sampleSlots ch n s).1.active = s.active := by
  obtain ⟨-, -, -, -, -, -, -, -, hactive⟩ := State.sampleSlots_spec ch n s
  exact hactive

/-- The body of MIX is its samples and one result at the port of the MIX, the only part that `more` is in (R135, R150). -/
theorem State.runMix_eq (ch : Channel P) (n : U16) (more : Bool) (s : State P) :
    s.runMix ch n more = { (State.sampleSlots ch n.toNat s).1 with
      results := (State.sampleSlots ch n.toNat s).1.results ++
        [⟨s.active, { status := .ok, count := n, samples := (State.sampleSlots ch n.toNat s).2, more := more }⟩] } := by
  rw [← State.sampleSlots_active ch n.toNat s]
  rfl

/-- The two bits of each lifecycle state (R156). -/
theorem Generator.lifecycle?_eq_some_iff {g : Generator P} {l : Lifecycle} :
    g.lifecycle? = some l ↔ g.playing = decide (l = .streaming) ∧ g.released = decide (l = .released) := by
  unfold Generator.lifecycle?
  cases g.playing <;> cases g.released <;> cases l <;> decide

/-- An operation other than START, STOP and EXIT leaves the lifecycle as it is (R156). -/
theorem exec_lifecycle_of_other {i : Instr} {s t : State} (h : exec i s = .next t) (hstart : i ≠ .start) (hstop : i ≠ .stop)
    (hexit : i ≠ .exit) : t.gen.lifecycle? = s.gen.lifecycle? := by
  obtain ⟨-, -, -, -, -, -, hplay, hrel⟩ := onlyNamedOperationsWrite i s t h
  simp only [Generator.lifecycle?, hplay hstart hstop hexit, hrel hexit]

/-- No operation clears `released` (R155). -/
theorem execOf_released {i : Instr} {s t : State P} (h : execOf ch i s = .next t) (hrel : s.gen.released = true) :
    t.gen.released = true := by
  cases execOf_cases h with
  | bus => simpa using hrel
  | seek | setrateZero | setrate | startReleased | start | stop | silence => exact hrel
  | exit => rfl
  | pull | mix => simpa only [State.runMix_frame] using hrel

/-- No step clears `released` (R155). -/
theorem stepOf_released {s t : State P} (h : stepOf ch s = .next t) (hrel : s.gen.released = true) :
    t.gen.released = true := by
  obtain rfl | ⟨p, d, q, sched, s0, -, rfl, ⟨i, -, hexec⟩ | ⟨e, -, rfl⟩⟩ := stepOf_cases h
  · exact hrel
  · exact execOf_released hexec (by simpa using hrel)
  · simpa using hrel

/-- Where no request waits none is taken, whatever the turns are (R156). -/
theorem State.nextRequest_eq_none {s : State P} (h : ∀ p, s.pending p = []) (l : List Turn) :
    State.nextRequest l s = none := by
  cases hreq : State.nextRequest l s with
  | none => rfl
  | some r =>
    obtain ⟨p, q, _, hpend, -⟩ := State.nextRequest_cases (s' := r.2) hreq
    exact absurd (hpend.symm.trans (h p)) (List.cons_ne_nil _ _)

end Sys2Proof.Machine
end

section

/-! The obligations about the stream and lifecycle operations (44_stream_ops.md). -/

namespace Sys2Proof.Machine

/-- Settles O11: MIX and a playing PULL run the same samples, and differ in `more` alone. -/
theorem pullGatesMixByPlaying : Obligations.PullGatesMixByPlaying := by
  intro n s
  refine ⟨decode_encode (i := .pull n) rfl, fun hplay => ?_, exec_pull_of_not_playing n⟩
  refine ⟨(State.sampleSlots referenceChannel n.toNat s).1, (State.sampleSlots referenceChannel n.toNat s).1.results,
    (State.sampleSlots referenceChannel n.toNat s).2, State.sampleSlots_length _ _ _, ?_, ?_⟩
  · exact congrArg Host.Outcome.next (State.runMix_eq referenceChannel n false s)
  · rw [exec_pull_of_playing n hplay, State.runMix_eq]

/-- Settles O27: no step clears `released`, and the machine invariant then leaves `playing = 0`. -/
theorem releasedIsPermanent : Obligations.ReleasedIsPermanent := by
  intro s t hinv hrel h
  rw [step_eq_stepOf] at h
  have hrel' := stepOf_released h hrel
  obtain ⟨-, -, hlife⟩ := State.inv_iff.1 (stepOf_inv hinv h)
  exact ⟨hrel', hlife.resolve_right (by simp [hrel'])⟩

/-- Settles O28: START, STOP and EXIT by the bits they write in each lifecycle state, every other operation by its frame. -/
theorem lifecycleTransitions : Obligations.LifecycleTransitions := by
  intro i s l hl
  obtain ⟨hplay, hrel⟩ := Generator.lifecycle?_eq_some_iff.1 hl
  cases i with
  | start =>
    cases l with
    | idle | streaming =>
      exact ⟨_, exec_start_of_not_released hrel, Generator.lifecycle?_eq_some_iff.2 ⟨rfl, hrel⟩⟩
    | released => exact ⟨_, exec_start_of_released hrel, hl⟩
  | stop => cases l <;> exact ⟨_, exec_stop s, Generator.lifecycle?_eq_some_iff.2 ⟨rfl, hrel⟩⟩
  | exit => exact ⟨_, exec_exit s, Generator.lifecycle?_eq_some_iff.2 ⟨rfl, rfl⟩⟩
  | _ =>
    obtain ⟨t, h⟩ := execOf_total referenceChannel _ s
    rw [← exec_eq_execOf] at h
    exact ⟨t, h, (exec_lifecycle_of_other h nofun nofun nofun).trans hl⟩

/-- Settles O7: by `released`; where `playing` is set already, setting it is no change. -/
theorem startSetsPlayingUnlessReleased : Obligations.StartSetsPlayingUnlessReleased := by
  refine ⟨decode_encode (i := .start) rfl, fun s => ⟨exec_start_of_released, exec_start_of_not_released, fun hrel hplay => ?_⟩⟩
  rw [exec_start_of_not_released hrel, ← hplay]
  rfl

/-- Settles O8: where `playing` is clear already, clearing it is no change. -/
theorem stopClearsPlaying : Obligations.StopClearsPlaying := by
  refine fun s => ⟨exec_stop s, fun hplay => ?_⟩
  rw [exec_stop, ← hplay]
  rfl

/-- Settles O9: EXIT from the state an EXIT leaves writes what stands there. -/
theorem exitReleasesAndIsIdempotent : Obligations.ExitReleasesAndIsIdempotent :=
  ⟨decode_encode (i := .exit) rfl, fun s => ⟨_, _, exec_exit s, rfl, exec_exit _, rfl, rfl⟩⟩

/-- Settles O10: the descriptor is the encoding of SEEK, and its rejection does not look at the time. -/
theorem seekIsRejected : Obligations.SeekIsRejected := fun time s =>
  ⟨decode_encode (i := .seek time) rfl, exec_seek time s⟩

/-- Settles O32: no request is taken, so the state stays, the schedule included. -/
theorem idleStepChangesNothing : Obligations.IdleStepChangesNothing := by
  intro s hidle
  simp only [step, State.serveNext, State.nextRequest_eq_none hidle]

end Sys2Proof.Machine
end

section

/-! SUPPORT. What one operation answers (60_exceptions.md rules R170, R172), and which descriptors are rejected for their length
(30_encoding.md rule R76). -/

namespace Sys2Proof

/-- Format Q has no operand bytes (R75). -/
theorem fieldsQ_isSome_iff {bs : List Byte} : (fieldsQ bs).isSome ↔ bs.length = 0 := by
  cases bs <;> simp [fieldsQ]

/-- Format C has four operand bytes (R75). -/
theorem fieldsC_isSome_iff {bs : List Byte} : (fieldsC bs).isSome ↔ bs.length = 4 := by
  unfold fieldsC
  split
  · simp
  · rename_i hshape
    simpa [List.length_eq_four] using hshape

/-- Format S has two operand bytes (R75). -/
theorem fieldsS_isSome_iff {bs : List Byte} : (fieldsS bs).isSome ↔ bs.length = 2 := by
  unfold fieldsS
  split
  · simp
  · rename_i hshape
    simpa [List.length_eq_two] using hshape

/-- A list of at least six bytes, taken apart. -/
theorem exists_six_cons {bs : List Byte} (h : 6 ≤ bs.length) :
    ∃ b1 b2 b3 b4 b5 b6 data, bs = b1 :: b2 :: b3 :: b4 :: b5 :: b6 :: data := by
  match bs, h with
  | b1 :: b2 :: b3 :: b4 :: b5 :: b6 :: data, _ => exact ⟨b1, b2, b3, b4, b5, b6, data, rfl⟩

/-- Format R has six operand bytes (R75). -/
theorem fieldsR_isSome_iff {bs : List Byte} : (fieldsR bs).isSome ↔ bs.length = 6 := by
  unfold fieldsR
  split
  · simp
  · rename_i hshape
    simp only [Option.isSome_none, Bool.false_eq_true, false_iff]
    intro hlen
    obtain ⟨b1, b2, b3, b4, b5, b6, data, rfl⟩ := exists_six_cons hlen.ge
    obtain rfl : data = [] := by simpa using hlen
    exact hshape b1 b2 b3 b4 b5 b6 rfl

/-- Format W has six operand bytes and as many bytes of data as its field `len` says (R75). -/
theorem fieldsW_isSome_iff {b : Byte} {bs : List Byte} : (fieldsW bs).isSome ↔ bs.length = 6 + lenField (b :: bs) := by
  by_cases hlen : 6 ≤ bs.length
  · obtain ⟨b1, b2, b3, b4, b5, b6, data, rfl⟩ := exists_six_cons hlen
    by_cases hdata : data.length = (le16 b5 b6).toNat <;> simp [fieldsW, lenField, hdata] <;> omega
  · have hnone : fieldsW bs = none := by
      unfold fieldsW
      split
      · simp at hlen
      · rfl
    simp only [hnone, Option.isSome_none, Bool.false_eq_true, false_iff]
    omega

/-- Operand bytes are an opcode's exactly if the descriptor has the length of its format (R75, R76). -/
theorem decodeOperands_isSome_iff {op : Opcode} {b : Byte} {bs : List Byte} :
    (decodeOperands op bs).isSome ↔ (b :: bs).length = op.format.length (lenField (b :: bs)) := by
  cases op <;> simp only [decodeOperands, Option.isSome_map, Opcode.format, Format.length, List.length_cons]
  case write => rw [fieldsW_isSome_iff (b := b)]; omega
  case read => rw [fieldsR_isSome_iff]; omega
  case size | addr | start | stop | exit => rw [fieldsQ_isSome_iff]; omega
  case setrate | seek => rw [fieldsC_isSome_iff]; omega
  case pull | mix => rw [fieldsS_isSome_iff]; omega

/-- A defined opcode is rejected exactly for a length other than its format's (R76). -/
theorem decode_eq_wrongLength_iff {op : Opcode} {bs : List Byte} :
    decode (op.code :: bs) = .error (.wrongLength op) ↔
      (op.code :: bs).length ≠ op.format.length (lenField (op.code :: bs)) := by
  rw [ne_eq, ← decodeOperands_isSome_iff]
  cases hi : decodeOperands op bs <;> simp [decode, Opcode.ofByte?_code, hi]

/-- A defined opcode with the length of its format is an instruction of that name (R76, R178). -/
theorem exists_decode_of_length {op : Opcode} {bs : List Byte}
    (h : (op.code :: bs).length = op.format.length (lenField (op.code :: bs))) :
    ∃ i, decode (op.code :: bs) = .ok i ∧ i.opcode = op := by
  obtain ⟨i, hi⟩ := Option.isSome_iff_exists.1 (decodeOperands_isSome_iff.2 h)
  have hdec : decode (op.code :: bs) = .ok i := decode_eq_ok_iff.2 ⟨_, _, op, rfl, op.ofByte?_code, hi⟩
  obtain ⟨opc, rest, hd, hop⟩ := Machine.decode_opcode hdec
  obtain ⟨rfl, -⟩ := List.cons.inj hd
  exact ⟨i, hdec, Option.some.inj (hop.symm.trans op.ofByte?_code)⟩

/-- The statuses other than OK that an operation returns (R172). -/
inductive Instr.Rejects : Instr → Machine.Status → Prop
  | setrate : Instr.Rejects (.setrate 0#32) .errArg
  | start : Instr.Rejects .start .errReleased
  | seek (time : U32) : Instr.Rejects (.seek time) .errUnsupported

end Sys2Proof

namespace Sys2Proof.Machine

variable {P : Type} {ch : Channel P} {s t : State P} {i : Instr}

/-- How an operation answers: one result at the port of the request, behind those of the requests ordered inside it (R170). -/
inductive State.OpAnswer (s : State P) (i : Instr) : State P → Prop
  | rejected {c : Status} : i.Rejects c → State.OpAnswer s i (s.reject c)
  /-- performed with nothing ordered inside it -/
  | performed (u : State P) (r : Result) : r.status = .ok → (∀ time, i ≠ .seek time) → u.active = s.active →
    u.results = s.results → State.OpAnswer s i (u.respond r)
  /-- a MIX or a playing PULL, with the answers `rs` of the requests ordered inside it -/
  | mixed (u : State P) (rs : List Response) (r : Result) : r.status = .ok →
    ((∃ n, i = .mix n) ∨ ((∃ n, i = .pull n) ∧ s.gen.playing = true)) → u.active = s.active →
    u.results = s.results ++ rs → (∀ q ∈ rs, q.port ≠ s.active) → State.OpAnswer s i (u.respond r)

/-- The body of a MIX and of a playing PULL answers last, behind requests of other ports (R58, R135). -/
theorem State.opAnswer_runMix (n : U16) (more : Bool)
    (hi : (∃ n, i = .mix n) ∨ ((∃ n, i = .pull n) ∧ s.gen.playing = true)) : s.OpAnswer i (s.runMix ch n more) := by
  obtain ⟨-, rs, -, -, -, hres, hrs, -, hactive⟩ := State.sampleSlots_spec ch n.toNat s
  exact .mixed _ rs _ rfl hi hactive hres fun q hq => (hrs q hq).1

/-- Every operation answers in one of these ways. -/
theorem execOf_answer (h : execOf ch i s = .next t) : s.OpAnswer i t := by
  cases i with
  | write | read | size | addr | stop | exit => cases h; exact .performed _ _ rfl nofun rfl rfl
  | start =>
    simp only [execOf, execStart] at h
    split at h
    · cases h; exact .rejected .start
    · cases h; exact .performed _ _ rfl nofun rfl rfl
  | setrate hz =>
    simp only [execOf, execSetrate] at h
    split at h
    · rename_i hz0
      cases h; subst hz0; exact .rejected .setrate
    · cases h; exact .performed _ _ rfl nofun rfl rfl
  | seek time => cases h; exact .rejected (.seek time)
  | pull n =>
    simp only [execOf, execPullOf] at h
    split at h
    · cases h; exact State.opAnswer_runMix n true (.inr ⟨⟨n, rfl⟩, ‹_›⟩)
    · cases h; exact .performed _ _ rfl nofun rfl rfl
  | mix n => cases h; exact State.opAnswer_runMix n false (.inl ⟨n, rfl⟩)

/-- A step on a request that decode rejects answers its status and does nothing else (R170, R178). -/
theorem step_of_decode_error {s s' : State} {d : Descriptor} {e : DecodeError}
    (hreq : State.nextRequest s.schedule s = some (d, s')) (hdec : decode d = .error e) :
    step s = .next (s'.reject (decodeStatus e)) := by
  simp only [step, State.serveNext, hreq, hdec]

end Sys2Proof.Machine
end

section

/-! The obligations about results and rejections (60_exceptions.md). -/

namespace Sys2Proof.Machine

/-- Settles O29: an operation is rejected, performed alone, or a MIX with the answers of other ports before its own. -/
theorem rejectionChangesNothing : Obligations.RejectionChangesNothing := by
  intro i s
  obtain ⟨t, h⟩ := execOf_total referenceChannel i s
  have hexec : exec i s = .next t := (exec_eq_execOf i s).trans h
  cases execOf_answer h with
  | @rejected c hc =>
    refine ⟨_, [], { status := c }, hexec, by simp, fun _ _ => rfl, nofun, fun _ => rfl, ?_⟩
    cases hc <;> simp
  | performed u r hok hseek hactive hres =>
    exact ⟨_, [], r, hexec, by simp [hactive, hres], fun _ _ => rfl, nofun, fun hne => absurd hok hne, .inl hok,
      fun time hi => absurd hi (hseek time)⟩
  | mixed u rs r hok hi hactive hres hports =>
    refine ⟨_, rs, r, hexec, by simp [hactive, hres], fun hmix hpull => ?_, hports, fun hne => absurd hok hne, .inl hok, ?_⟩
    · obtain ⟨n, rfl⟩ | ⟨⟨n, rfl⟩, hplay⟩ := hi
      · exact absurd rfl (hmix n)
      · obtain hpull | hplay' := hpull
        · exact absurd rfl (hpull n)
        · simp [hplay] at hplay'
    · rintro time rfl
      simp at hi

/-- Settles O31: the decoder looks at the opcode first and then at the length, and the step answers its error. -/
theorem stepRejectsMalformedRequest : Obligations.StepRejectsMalformedRequest := by
  intro s s' d hreq
  refine ⟨?_, ?_, ?_, ?_⟩
  · rintro rfl
    exact step_of_decode_error hreq rfl
  · rintro b rest rfl hb
    exact step_of_decode_error hreq (decode_eq_reservedOpcode_iff.2 (Opcode.ofByte?_eq_none_iff.2 hb))
  · rintro b rest op rfl rfl hlen
    exact step_of_decode_error hreq (decode_eq_wrongLength_iff.2 hlen)
  · rintro b rest op rfl rfl hlen
    obtain ⟨i, hdec, hop⟩ := exists_decode_of_length hlen
    exact ⟨i, hop, stepRunsDecodedRequest.1 s s' _ i hreq hdec⟩

end Sys2Proof.Machine
end

section

/-! SUPPORT. A WRITE of one byte to a register of a channel, as an atomic step (20_memory.md rules R51, R55, R63), and what it
does to the frequency that stands in the registers (42_channel.md rule R115). -/

namespace Sys2Proof.Machine

variable (g : Generator Slice) (p : Params) (c : ChannelNo) (b : Byte)

/-- The WRITE of one byte to register `k` of channel `c` stores that byte and does nothing else (R51, R63). -/
theorem Generator.busAction_write_register {k : Nat} (hk : k < sliceLen) :
    g.busAction p (.write (chAddr p c + BitVec.ofNat 32 k) [b]) = { g with reg := g.reg.store (sliceLen * c.val + k) b } := by
  have hc := c.isLt
  have ho : sliceLen * c.val + k < sndMemoryLength := by
    simp only [sliceLen, nChannels, sndMemoryLength] at *
    omega
  have hclip : clipCount (sliceLen * c.val + k) [b].length = 1 :=
    Nat.min_eq_left (Nat.sub_pos_of_lt ho)
  rw [Generator.busAction, Generator.memWrite_inside g [b] (windowOffset_eq_some.2 ⟨chAddr_add_toNat p c hk, ho⟩), hclip]
  rfl

/-- The first register of a channel stands at its address (R81). -/
theorem Generator.busAction_write_first_register :
    g.busAction p (.write (chAddr p c) [b]) = { g with reg := g.reg.store (sliceLen * c.val) b } := by
  have hwrite := g.busAction_write_register p c b (k := 0) (by decide)
  rwa [BitVec.add_zero] at hwrite

/-- The WRITE of `FREQ_LO` alone leaves the old high byte. -/
theorem Generator.freqWritten_write_low :
    (g.busAction p (.write (chAddr p c) [b])).freqWritten c = le16 b (g.reg.load (sliceLen * c.val + 1)) := by
  rw [Generator.busAction_write_first_register, Generator.freqWritten, Memory.load_store_same,
    Memory.load_store_other _ _ (Nat.succ_ne_self _)]

/-- The WRITE of `FREQ_HI` alone leaves the old low byte. -/
theorem Generator.freqWritten_write_high :
    (g.busAction p (.write (chAddr p c + 1) [b])).freqWritten c = le16 (g.reg.load (sliceLen * c.val)) b := by
  have hwrite : g.busAction p (.write (chAddr p c + 1) [b]) = _ := g.busAction_write_register p c b (k := 1) (by decide)
  rw [hwrite, Generator.freqWritten, Memory.load_store_same, Memory.load_store_other _ _ (Nat.succ_ne_self _).symm]

end Sys2Proof.Machine
end

section

/-! SUPPORT. The generator with every channel of the reference kind disabled, in the latch and in the registers: it samples zeros
for as long as nothing is written (42_channel.md rule R118, 70_reset_and_hazards.md rule R191). -/

namespace Sys2Proof

/-- A READ of the zero register file gives zeros (R5, R52). -/
theorem Memory.loadBytes_nil (o n : Nat) : Memory.loadBytes [] o n = List.replicate n 0 := by
  simp [Memory.loadBytes, Memory.blank]

end Sys2Proof

namespace Sys2Proof.Machine

/-- No channel is enabled, neither as latched nor as the registers would be latched by the next TICK (R118). -/
def Generator.Silent (g : Generator Slice) : Prop :=
  ∀ c : ChannelNo, chEnabled g.lat[c.val] = false ∧ chEnabled (g.reg.slice c) = false

variable {g : Generator Slice}

/-- The TICK of a slot latches registers that enable no channel. -/
theorem Generator.Silent.openSlot (h : g.Silent) : (g.openSlot referenceChannel).Silent := by
  cases hdue : g.tickDue with
  | true =>
    rw [Generator.openSlot_of_due _ g hdue]
    intro c
    obtain ⟨-, hreg⟩ := h c
    have hlat : (g.tick referenceChannel).lat[c.val] = g.reg.slice c := Generator.tick_latched referenceChannel g c
    exact ⟨hlat ▸ hreg, hreg⟩
  | false => rwa [Generator.openSlot_of_not_due _ g hdue]

theorem Generator.Silent.sample (h : g.Silent) : (g.sample referenceChannel).1.Silent := by
  rw [Generator.sample_eq]
  exact h.openSlot

/-- Eight disabled channels sum to 0 (R118, R134 c). -/
theorem Generator.Silent.mixSum (h : g.Silent) : g.mixSum referenceChannel = 0 := by
  rw [Generator.mixSum_of_one_enabled g 0 fun c _ => (h c).1, chRender_of_disabled (h 0).1]
  rfl

theorem Generator.Silent.sample_value (h : g.Silent) : (g.sample referenceChannel).2 = 0 := by
  rw [Generator.sample_eq, h.openSlot.mixSum]
  rfl

theorem Generator.Silent.samplesRun (h : g.Silent) (p : Params) (n : Nat) :
    (g.samplesRun referenceChannel p n).2.1 = List.replicate n 0 := by
  induction n generalizing g with
  | zero => rfl
  | succ n ih => rw [Generator.samplesRun_succ, ih h.sample, h.sample_value, List.replicate_succ]

/-- A MIX that starts with a TICK due has its `tick_evt` first (R134 a). -/
theorem Generator.samplesRun_events_head? (p : Params) {n : Nat} (hn : 0 < n) (hdue : g.t = g.nextTick) :
    (g.samplesRun referenceChannel p n).2.2.head? = some g.t := by
  obtain ⟨m, rfl⟩ := Nat.exists_eq_add_of_lt hn
  rw [Nat.zero_add, Generator.samplesRun_succ, Generator.slotEvents_of_due (Generator.tickDue_of_eq hdue)]
  rfl

/-- Construction with a zero register file enables no channel (R190). -/
theorem State.construct_silent {p : Params} (h : p.regReset = []) : (State.construct p).gen.Silent := by
  have hslice : ∀ c : ChannelNo, chEnabled (p.regReset.slice c) = false := by
    intro c
    rw [chEnabled, Memory.slice_getElem, h, Memory.load_nil]
    rfl
  intro c
  have hlat : (State.construct p).gen.lat[c.val] = p.regReset.slice c := State.constructOf_latched referenceChannel p c
  exact ⟨hlat ▸ hslice c, hslice c⟩

end Sys2Proof.Machine
end

section

/-! The obligations about reset and the hazard of a split write (70_reset_and_hazards.md). -/

namespace Sys2Proof.Machine

/-- Settles O40: the SAMPLE between the two WRITEs latches what the first one left, and the second one does not reach the
latch. -/
theorem splitWriteTears : Obligations.SplitWriteTears := by
  intro p g c lo hi hdue
  have hafter : (g.busAction p (.write (chAddr p c) [lo])).tickDue = true := Generator.tickDue_of_eq (by simpa using hdue)
  simp only [Generator.runActions_bus, Generator.runActions_sample, Generator.runActions_nil]
  constructor
  · rw [Generator.freqLatched_busAction, Generator.freqLatched_sample, if_pos hafter, Generator.freqWritten_write_low]
  · rw [Generator.freqWritten_write_high, Generator.sample_reg, Generator.busAction_write_first_register, Memory.load_store_same]

/-- Settles O53: the constructed generator is silent and not playing, its register file holds zeros, and its first TICK is due at
once. -/
theorem freshMachineIsSilent : Obligations.FreshMachineIsSilent := by
  rintro p n len a zeros hreg rfl
  obtain ⟨hinside, houtside⟩ := readReturnsWindowBytes a len (State.construct p)
  obtain ⟨hmix, -⟩ := mixWithoutInterleaving n (State.construct p) rfl
  refine ⟨⟨_, hmix, (State.construct_silent hreg).samplesRun p n.toNat,
    fun hn => Generator.samplesRun_events_head? p hn rfl⟩, exec_pull_of_not_playing n rfl, fun o ho ha => ?_, houtside⟩
  have hzeros : p.regReset.loadBytes o (min len.toNat (512 - o)) = List.replicate (min len.toNat (512 - o)) 0 := by
    rw [hreg, Memory.loadBytes_nil]
  rw [← hzeros]
  exact hinside o ho ha

end Sys2Proof.Machine
end
